-- ==== Sys2Proof/Word.lean ====
section
/-!
DEFINITION. The block's plain types: its words, bytes and addresses (R9, R10), its three channels and the
two raw buffers of a channel (R7).
-/

namespace Sys2Proof

/-- A 32-bit register value (R9, R32). -/
abbrev Word := BitVec 32

/-- A 16-bit value: a PCM sample or a filter parameter (R7, R9). -/
abbrev Half := BitVec 16

/-- One byte of a raw buffer or of host memory. -/
abbrev Byte := BitVec 8

/-- A 32-bit byte address of host memory (R9, R83). -/
abbrev Addr := BitVec 32

/-- A channel id: `NCH = 3` channels, 0, 1 and 2 (R7). -/
abbrev Chan := Fin 3

/-- The index of one of a channel's `NBUF = 2` raw buffers (R7, R45). Addition on it is taken mod 2. -/
abbrev BufIdx := Fin 2

end Sys2Proof
end

