-- ==== Sys2Proof/Syntax.lean ====
section
/-!
DEFINITION. The ten commands of the command register (R3, R110 to R121), one constructor per row of
spec/opcode_table.json.
-/

namespace Sys2Proof

/-- A command. `ch` is the command word's CH field: 0, 1 or 2 name a channel, and 3 is a form that decodes and
raises INVALID_CHANNEL (R110, R125; log 13). `imm` is IMM16, unsigned (R111). READ takes its output address and
sample count from ARG0 and ARG1, INIT its configuration from the staging registers (R111). -/
inductive Instr where
  | init (ch : BitVec 2)
  | deinit (ch : BitVec 2)
  | start (ch : BitVec 2)
  | stop (ch : BitVec 2)
  | setrdy (ch : BitVec 2) (en : Bool)
  | setmaxv (ch : BitVec 2) (imm : Half)
  | setgain (ch : BitVec 2) (imm : Half)
  | setvol (ch : BitVec 2) (imm : Half)
  | read (ch : BitVec 2)
  | ack (ch : BitVec 2)
deriving DecidableEq, Repr

/-- The CH field of a command (R110). -/
def Instr.ch : Instr → BitVec 2
  | .init ch => ch
  | .deinit ch => ch
  | .start ch => ch
  | .stop ch => ch
  | .setrdy ch _ => ch
  | .setmaxv ch _ => ch
  | .setgain ch _ => ch
  | .setvol ch _ => ch
  | .read ch => ch
  | .ack ch => ch

end Sys2Proof
end

