-- ==== Sys2Proof/WellFormed.lean ====
section
/-!
DEFINITION. The commands an assembler line can name (R127): the channel operand is 0 to 2. The other operands'
ranges are their types (a 16-bit value, a 1-bit enable).
-/

namespace Sys2Proof

/-- R127: `c` is 0 to 2. A command word with CH = 3 still decodes and still has its meaning, INVALID_CHANNEL
(R125; log 13); it is only no assembler line. -/
def Instr.wellFormed (i : Instr) : Bool := i.ch != 3#2

end Sys2Proof
end

