-- ==== Sys2Proof/Decode.lean ====
section
/-!
DEFINITION. Decoding of a command word (R110 to R126), total on every 32-bit word, and the encoder.
-/

namespace Sys2Proof

/-- Why a command word is ILLEGAL_COMMAND, in the check order of R303. -/
inductive DecodeError where
  /-- OP is 0x0 or 0xB to 0xF (R122). -/
  | reservedOp
  /-- A bit of RSV, bits 15:6, is set (R123). -/
  | reservedBits
  /-- IMM16 violates its opcode's constraint (R124). -/
  | immConstraint
deriving DecidableEq, Repr

/-- What a command word decodes to. -/
inductive Decoded where
  | instr (i : Instr)
  | illegal (e : DecodeError)
deriving DecidableEq, Repr

/-- The OP field, bits 3:0 (R110). -/
def opField (w : Word) : BitVec 4 := w.extractLsb' 0 4

/-- The CH field, bits 5:4 (R110). -/
def chField (w : Word) : BitVec 2 := w.extractLsb' 4 2

/-- The RSV field, bits 15:6 (R110). -/
def rsvField (w : Word) : BitVec 10 := w.extractLsb' 6 10

/-- The IMM16 field, bits 31:16 (R110). -/
def immField (w : Word) : Half := w.extractLsb' 16 16

/-- The form a command of each opcode has: no immediate, the enable bit `IMM16[0]`, or the whole IMM16 (R124). -/
inductive OpForm where
  | plain (mk : BitVec 2 → Instr)
  | enable (mk : BitVec 2 → Bool → Instr)
  | value (mk : BitVec 2 → Half → Instr)

/-- The opcode map of R112 to R121; every other OP value is reserved (R122). -/
def opForm (op : BitVec 4) : Option OpForm :=
  match op.toNat with
  | 1 => some (.plain .init)
  | 2 => some (.plain .deinit)
  | 3 => some (.plain .start)
  | 4 => some (.plain .stop)
  | 5 => some (.enable .setrdy)
  | 6 => some (.value .setmaxv)
  | 7 => some (.value .setgain)
  | 8 => some (.value .setvol)
  | 9 => some (.plain .read)
  | 10 => some (.plain .ack)
  | _ => none

/-- R124: the IMM16 constraint of a form, and the command it makes. -/
def OpForm.build (f : OpForm) (ch : BitVec 2) (imm : Half) : Decoded :=
  match f with
  | .plain mk => if imm = 0#16 then .instr (mk ch) else .illegal .immConstraint
  | .enable mk =>
      if imm.extractLsb' 1 15 = 0#15 then .instr (mk ch (imm.getLsbD 0)) else .illegal .immConstraint
  | .value mk => .instr (mk ch imm)

/-- R126: every 32-bit word decodes, to one of the ten commands or to a reason for ILLEGAL_COMMAND, checked in the
order of R303: OP, RSV, IMM16. CH = 3 is left to the command's own check (R303 (4); log 13). -/
def decode (w : Word) : Decoded :=
  match opForm (opField w) with
  | none => .illegal .reservedOp
  | some f => if rsvField w ≠ 0#10 then .illegal .reservedBits else f.build (chField w) (immField w)

/-- The instruction the decoder reads from a table row's bits. A command is one 32-bit word (R126), bit 0 the
least significant, so the bits of `w` are the word. -/
def decodeTableWord (nbits w : Nat) : Option Instr :=
  match decode (BitVec.ofNat 32 (w % 2 ^ nbits)) with
  | .instr i => some i
  | .illegal _ => none

/-- R110: the command word is `IMM16 << 16 | RSV << 6 | CH << 4 | OP`, with RSV = 0. -/
def commandWord (op : BitVec 4) (ch : BitVec 2) (imm : Half) : Word := imm ++ 0#10 ++ ch ++ op

/-- The word of each command (R112 to R121). -/
def encode : Instr → Word
  | .init ch => commandWord 0x1#4 ch 0#16
  | .deinit ch => commandWord 0x2#4 ch 0#16
  | .start ch => commandWord 0x3#4 ch 0#16
  | .stop ch => commandWord 0x4#4 ch 0#16
  | .setrdy ch en => commandWord 0x5#4 ch (0#15 ++ BitVec.ofBool en)
  | .setmaxv ch imm => commandWord 0x6#4 ch imm
  | .setgain ch imm => commandWord 0x7#4 ch imm
  | .setvol ch imm => commandWord 0x8#4 ch imm
  | .read ch => commandWord 0x9#4 ch 0#16
  | .ack ch => commandWord 0xA#4 ch 0#16

end Sys2Proof
end

