-- ==== Sys2Proof/Config.lean ====
section
/-!
DEFINITION. The implementation parameters of R7: the values the spec fixes, and, as opaque constants with no body,
the parameters it leaves OPEN and the values it leaves free. Also the moves the outside world makes on the block
(R312, R320), since one of the parameters is the order they come in.
-/

namespace Sys2Proof

/-- A value of the filter's running-state type FState (R55, R200). The type is OPEN; a value of it is held by a
code number, which any countable type has (DESIGN CHOICE, log 6). -/
structure FState where
  code : Nat
deriving DecidableEq, Repr, Inhabited

/-- The filter parameter record FP of R53. `lp`, `hp` and `nch` hold values of LP_CUTOFF, HP_CUTOFF and
MIC_CHANNELS, whose representation is the model's (log 6). -/
structure FilterParams where
  fs : Word
  lp : Nat
  hp : Nat
  nch : Nat
  dec : Nat
  maxv : Half
  gain : Half
deriving DecidableEq, Repr

/-- Which bit of a raw byte holds the earliest PDM bit: any of the eight (R7, R257). -/
abbrev PdmBitOrder := Fin 8

/-- One move of an agent of R320, or of the world outside the block. The host's accesses name a byte offset from
REG_BASE (log 1) and their size in bytes. -/
inductive Event where
  /-- The host writes `v` to the register space (R84): `WR` of R128. -/
  | write (off size : Nat) (v : Word)
  /-- The host reads the register space (R84): `RD` of R128. -/
  | read (off size : Nat)
  /-- The capture agent of `c` takes its DMA byte step, and the front end delivers `v` (R250): `@DMA` of R128. -/
  | dma (c : Chan) (v : Byte)
  /-- The completion handler takes its step (R251): `@IRQ` of R128. -/
  | irq
  /-- The read engine takes one chunk step (R203): `@CHUNK` of R128. -/
  | chunk
  /-- The host stores a byte into its own memory (R353; log 9). -/
  | memStore (a : Addr) (v : Byte)
  /-- The host loads a byte from its own memory (R96, R208; log 9). -/
  | memLoad (a : Addr)
  /-- The block's reset is asserted (R340). -/
  | reset
deriving DecidableEq, Repr, Inhabited

namespace Config

/-- `D`: PDM bits per PCM sample (R7, R8). -/
def decimation : Nat := 64

/-- `D / 8`: raw bytes per PCM sample (R8). -/
def bytesPerSample : Nat := decimation / 8

/-- `DEF_MAXV` (R7). -/
def defMaxv : Half := 64#16

/-- `DEF_GAIN` (R7). -/
def defGain : Half := 16#16

/-- `DEF_VOL = DEF_MAXV` (R7; log 21). -/
def defVol : Half := defMaxv

/-- `STOP_ASYMMETRIC`: the spec's value is `false` (R7, R149; log 12). -/
def stopAsymmetric : Bool := false

/-- `REG_BASE`: the byte address of the register block, OPEN (R7, R93; log 1). -/
opaque regBase : Addr

/-- `F_SYS`: the system clock frequency in Hz, OPEN (R7). -/
opaque fSys : Nat

/-- `CLKDIV_FN(f_sys, rate, d)`: the clock divisor, OPEN (R7, R142; log 6). -/
opaque clkdivFn (fSys : Nat) (rate : Word) (d : Nat) : Nat

/-- `LP_CUTOFF(fs)`, OPEN (R7, R143; log 6). -/
opaque lpCutoff (fs : Word) : Nat

/-- `HP_CUTOFF(fs)`, OPEN (R7, R143; log 6). -/
opaque hpCutoff (fs : Word) : Nat

/-- `MIC_CHANNELS`, OPEN (R7, R143; log 6). -/
opaque micChannels : Nat

/-- `FilterInit : FP -> FState`, opaque (R200). -/
opaque filterInit (p : FilterParams) : FState

/-- The PCM part of `FilterApply(bytes, vol, fp, frs)`: sample `j` of the chunk (R200; log 6). -/
opaque filterSample (bytes : List Byte) (vol : Half) (p : FilterParams) (st : FState) (j : Nat) : Half

/-- The next running state of `FilterApply(bytes, vol, fp, frs)` (R200; log 6). -/
opaque filterNext (bytes : List Byte) (vol : Half) (p : FilterParams) (st : FState) : FState

/-- `HostWritable(a, n)`: host memory admits an `n`-byte write of the block at `a`, OPEN (R7, R83; log 7). That the
host's own stores are not asked of it is the model's choice (log 22). -/
opaque hostWritable (a n : Nat) : Bool

/-- `PDM_BIT_ORDER`, OPEN (R7, R257; log 5). -/
opaque pdmBitOrder : PdmBitOrder

/-- Where the PDM bits after the earliest lie in a raw byte, which the spec does not say (R257; log 5): the place of a
bit among the `n` bits sampled after it. -/
opaque pdmLaterPlace (n : Nat) : Nat

/-- `AllocOracle(c, b, n)`: the answer of the `t`-th free draw when it asks the allocator (R141; log 4). -/
opaque allocOracle (t : Nat) (c : Chan) (b : BufIdx) (n : Nat) : Bool

/-- `DmaClaimOracle(c)`: the answer of the `t`-th free draw when it asks the DMA pool (R141; log 4). -/
opaque dmaClaimOracle (t : Nat) (c : Chan) : Bool

/-- Which move comes next when State lists none: any agent's, or the outside world's (R312; log 2). -/
opaque nextEvent (t : Nat) : Event

/-- What a host load returns from the output range of a READ in progress (R208; log 9) or abandoned by a reset (R340;
log 10): any value. -/
opaque outputByte (t : Nat) : Byte

/-- What host memory holds at an address nothing has written since the run began (log 8). -/
opaque hostMemInit (a : Addr) : Byte

/-- What an unwritten raw byte holds (R47): read in no reachable state (R60 (c); log 11). -/
opaque unwrittenByte (c : Chan) (b : BufIdx) (i : Nat) : Byte

/-- What the filter is given where no running state is set: in no reachable state (R60 (d); log 11). -/
opaque unsetState : FState

end Config

end Sys2Proof
end

