-- ==== Sys2Proof/Machine/State.lean ====
section
/-!
DEFINITION. The state of the block (10_state.md), as plain data, its reset value (R59, R340), and the reasons a
step can stop.
-/

namespace Sys2Proof.Machine

/-- Bytes by address, addresses strictly rising. An address that is not listed holds no value the model knows:
unwritten, for a raw buffer (R47); never written in this run, for host memory (log 8). -/
abbrev Memory := List Host.Cell

/-- The lifecycle state of a channel (R44). -/
inductive LState where
  | uninit
  | idle
  | active
deriving DecidableEq, Repr

/-- The values STATUS.ERR takes (R300). -/
inductive ErrCode where
  | ok
  | configError
  | allocationError
  | resourceExhausted
  | invalidChannel
  | illegalCommand
  | badState
  | misaligned
  | addressRange
  | busFault
deriving DecidableEq, Repr

/-- The configuration a successful INIT latches (R46). -/
structure ChanConfig where
  rate : Word
  bufsz : Word
  dataPin : Byte
  clkPin : Byte
  pio : BitVec 4
  sm : BitVec 4
deriving DecidableEq, Repr

/-- The state behind one channel's registers (R44 to R55). READY_PEND[c] and OVR[c] of IRQ_STAT live here (R52). -/
structure Channel where
  lstate : LState
  w : BufIdx
  r : BufIdx
  cfg : ChanConfig
  rawSize : Nat
  clkdiv : Nat
  raw : Vector (Option Memory) 2
  holdsBuf : Vector Bool 2
  holdsDma : Bool
  dmaArmed : Bool
  dmaProg : Nat
  dmaPend : Bool
  dmaIrqEn : Bool
  capEn : Bool
  readyEn : Bool
  pendCount : Word
  readyPend : Bool
  ovr : Bool
  fp : FilterParams
  vol : Half
  frs : Option FState
deriving DecidableEq, Repr

/-- The staging registers of one channel: CFG_RATE, CFG_BUFSZ (R38) and the used bits of CFG_PINS (R39). -/
structure Staging where
  rate : Word
  bufsz : Word
  pins : BitVec 24
deriving DecidableEq, Repr

/-- The read engine (R56). -/
structure ReadEngine where
  busy : Bool
  ch : Chan
  buf : BufIdx
  addr : Addr
  n : Nat
  k : Nat
deriving DecidableEq, Repr

/-- What a channel's INIT loaded into the programmable I/O front end (R142): outside the block (R59; log 19). -/
structure FrontEnd where
  pio : BitVec 4
  sm : BitVec 4
  dataPin : Byte
  clkPin : Byte
  divisor : Nat
deriving DecidableEq, Repr

/-- The addresses `lo` to `hi - 1` of host memory, whose content is any value to the host: the output range of a READ
that a reset abandoned (R340; log 10). -/
structure OpenRange where
  lo : Nat
  hi : Nat
deriving DecidableEq, Repr

/-- The block, the host memory it writes and the parts of it that are any value to the host (`openRanges`, log 10),
the front end it programs, and the model's own inputs: `agenda` (the moves that come next, log 2), `answers`
(the environment's next answers to INIT's draws, log 4), `draws` (how many free values have been drawn), `hostData`
(what the host's last read returned, log 18). -/
structure State where
  lost : Bool
  fault : Bool
  err : ErrCode
  result : Word
  arg0 : Word
  arg1 : Word
  staging : Vector Staging 3
  chans : Vector Channel 3
  lineEn : Bool
  rd : ReadEngine
  mem : Memory
  openRanges : List OpenRange
  frontEnd : Vector (Option FrontEnd) 3
  agenda : List Event
  answers : List Bool
  draws : Nat
  hostData : Word
deriving DecidableEq, Repr

/-- Why the machine stops. -/
inductive Fault where
  /-- Raised by every move but reset once STATUS.FAULT is 1: the block takes no further step of any agent until
  reset (R306). Safe: the machine only stops. -/
  | busFault
  /-- Raised by a host access to the register space that is not 32 bits wide or not word-aligned: the spec gives
  it no step (R85; log 16). Safe: the machine only stops. -/
  | unadmittedAccess
  /-- Raised by a host access at an offset of 0x80 or more, which is outside the block (R81; log 16). Safe: the
  machine only stops. -/
  | outsideBlock
deriving DecidableEq, Repr

/-- Why a command has no meaning. -/
inductive Refusal where
  /-- Raised by `exec` for a command that has no meaning yet. Safe. (No command of this model answers it.) -/
  | notModelled (mnemonic : String)
deriving DecidableEq, Repr

/-- What a step of this machine answers. -/
abbrev Out := Host.Outcome State Fault Refusal

/-- R59: the latched configuration after reset. -/
def ChanConfig.reset : ChanConfig :=
  { rate := 0#32, bufsz := 0#32, dataPin := 0#8, clkPin := 0#8, pio := 0#4, sm := 0#4 }

/-- R53, R59: the filter parameters after reset. -/
def filterParamsReset : FilterParams :=
  { fs := 0#32, lp := 0, hp := 0, nch := 0, dec := 0, maxv := 0#16, gain := 0#16 }

/-- R59: a channel after reset. -/
def Channel.reset : Channel :=
  { lstate := .uninit, w := 0, r := 0, cfg := ChanConfig.reset, rawSize := 0, clkdiv := 0,
    raw := #v[none, none], holdsBuf := #v[false, false], holdsDma := false,
    dmaArmed := false, dmaProg := 0, dmaPend := false, dmaIrqEn := false, capEn := false,
    readyEn := false, pendCount := 0#32, readyPend := false, ovr := false,
    fp := filterParamsReset, vol := 0#16, frs := none }

/-- R59: the staging registers after reset. -/
def Staging.reset : Staging := { rate := 0#32, bufsz := 0#32, pins := 0#24 }

/-- R56, R59: the read engine after reset. -/
def ReadEngine.reset : ReadEngine := { busy := false, ch := 0, buf := 0, addr := 0#32, n := 0, k := 0 }

/-- R59, R340: the block after reset. The spec's reset does not touch host memory and the front end; here nothing
is known of either (log 8, log 19), no READ has been abandoned (log 10), and nothing is on the model's own lists
(log 18). -/
def State.reset : State :=
  { lost := false, fault := false, err := .ok, result := 0#32, arg0 := 0#32, arg1 := 0#32,
    staging := #v[Staging.reset, Staging.reset, Staging.reset],
    chans := #v[Channel.reset, Channel.reset, Channel.reset],
    lineEn := false, rd := ReadEngine.reset, mem := [], openRanges := [], frontEnd := #v[none, none, none],
    agenda := [], answers := [], draws := 0, hostData := 0#32 }

end Sys2Proof.Machine
end

