-- ==== Sys2Proof/Machine/Ops.lean ====
section
/-!
DEFINITION. The named operations: memory, per-channel access, the acceptance of a command and its results, the
fault outcome, the environment's draws, the DMA, the front end and the filter.
-/

namespace Sys2Proof.Machine

/-! ## Memory -/

/-- The byte listed at address `a`, if any: the one place that says what an unlisted address reads as. -/
def Memory.read : Memory → Nat → Option Byte
  | [], _ => none
  | (k, v) :: rest, a => if k = a then some v else Memory.read rest a

/-- Write one byte, keeping addresses strictly rising. -/
def Memory.write : Memory → Nat → Byte → Memory
  | [], a, b => [(a, b)]
  | (k, v) :: rest, a, b =>
      if a < k then (a, b) :: (k, v) :: rest
      else if a = k then (a, b) :: rest
      else (k, v) :: Memory.write rest a b

/-- Addresses are strictly rising. -/
abbrev Memory.sorted (m : Memory) : Prop := m.Pairwise (fun x y => x.1 < y.1)

/-- Every listed address is below `n`. -/
abbrev Memory.below (n : Nat) (m : Memory) : Prop := ∀ x ∈ m, x.1 < n

/-- The canonical form of host memory: strictly rising addresses of the 32-bit space (R83). -/
abbrev Memory.wf (m : Memory) : Prop := m.sorted ∧ m.below (2 ^ 32)

/-- R88: `MemWrite(a, 2, v)`, little-endian: `v[7:0]` at `a` and `v[15:8]` at `a + 1`. -/
def Memory.write16 (m : Memory) (a : Nat) (v : Half) : Memory :=
  Memory.write (Memory.write m a (v.extractLsb' 0 8)) (a + 1) (v.extractLsb' 8 8)

/-- R203: the samples of a chunk, written in order from address `a` on. -/
def Memory.writeSamples (m : Memory) (a : Nat) : List Half → Memory
  | [] => m
  | x :: xs => Memory.writeSamples (m.write16 a x) (a + 2) xs

/-! ## Ranges of host memory that are any value to the host (R340; log 10) -/

/-- Address `a` lies in an open range. -/
def isOpen (gs : List OpenRange) (a : Nat) : Bool := gs.any (fun g => decide (g.lo ≤ a) && decide (a < g.hi))

/-- What is left of a range when the bytes `lo` to `hi - 1` are taken out of it. -/
def OpenRange.cut (lo hi : Nat) (g : OpenRange) : List OpenRange :=
  ([{ lo := g.lo, hi := min g.hi lo }, { lo := max g.lo hi, hi := g.hi }] : List OpenRange).filter
    (fun x => decide (x.lo < x.hi))

/-- The bytes `lo` to `hi - 1` have been written, and hold what was written (R95). -/
def settle (lo hi : Nat) (gs : List OpenRange) : List OpenRange := gs.flatMap (OpenRange.cut lo hi)

/-! ## Channels and staging registers -/

/-- `ch[c]` (R11). -/
def State.chan (s : State) (c : Chan) : Channel := s.chans[c]

/-- Write `ch[c]`. -/
def State.setChan (s : State) (c : Chan) (x : Channel) : State := { s with chans := s.chans.set c x }

/-- Change `ch[c]`. -/
def State.modChan (s : State) (c : Chan) (f : Channel → Channel) : State := s.setChan c (f (s.chan c))

/-- The staging registers of channel `c` (R38, R39). -/
def State.stage (s : State) (c : Chan) : Staging := s.staging[c]

/-- Change the staging registers of channel `c`. -/
def State.modStage (s : State) (c : Chan) (f : Staging → Staging) : State :=
  { s with staging := s.staging.set c (f (s.stage c)) }

/-! ## Results of a command -/

/-- An accepted command ends: STATUS.ERR and RESULT (R34, R35). -/
def report (e : ErrCode) (result : Word) (s : State) : State := { s with err := e, result := result }

/-- R301: `raise E`. -/
def raise (e : ErrCode) (s : State) : State := report e 0#32 s

/-- A command that ends with `STATUS.ERR <- OK ; RESULT <- 0`. -/
def finish (s : State) : State := report .ok 0#32 s

/-- R302: a host write of CMD. After FAULT there is no step (R306); while a READ is in progress the write is
dropped and LOST set; else it is accepted, LOST cleared, and `body` is checked and performed. -/
def accept (body : State → State) (s : State) : Out :=
  if s.fault then .fault .busFault
  else if s.rd.busy then .next { s with lost := true }
  else .next (body { s with lost := false })

/-- R306: the fault outcome is entered: FAULT = 1 and ERR = BUS_FAULT in this step. The steps after it stop. -/
def enterBusFault (s : State) : State := { s with fault := true, err := .busFault }

/-- The first check of every command but DEINIT whose channel may be IDLE or ACTIVE: BAD_STATE when UNINIT
(R180 to R183, R202, R230). -/
def whenInit (c : Chan) (body : State → State) (s : State) : State :=
  if (s.chan c).lstate = .uninit then raise .badState s else body s

/-! ## Draws of the environment -/

/-- R141: the environment's next answer: the head of `answers`, or, where none is listed, the value of a free
oracle (log 4). -/
def drawAnswer (oracle : Bool) (s : State) : Bool × State :=
  match s.answers with
  | b :: rest => (b, { s with answers := rest })
  | [] => (oracle, { s with draws := s.draws + 1 })

/-- R141: `draw AllocOracle(c, b, n)`; `true` is ok. -/
def drawAlloc (c : Chan) (b : BufIdx) (n : Nat) (s : State) : Bool × State :=
  drawAnswer (Config.allocOracle s.draws c b n) s

/-- R141: `draw DmaClaimOracle(c)`; `true` is ok. -/
def drawDma (c : Chan) (s : State) : Bool × State :=
  drawAnswer (Config.dmaClaimOracle s.draws c) s

/-! ## The DMA, the completion line and the front end -/

/-- R147: Arm(c): start a transfer of `raw_size` bytes into `raw[c][w]`; an empty one completes at once. -/
def Channel.arm (x : Channel) : Channel :=
  if x.rawSize = 0 then { x with dmaProg := 0, dmaArmed := false, dmaPend := true }
  else { x with dmaProg := 0, dmaArmed := true }

/-- `OR over x != c of ch[x].dma_irq_en` (R144, R148). -/
def othersIrq (c : Chan) (s : State) : Bool :=
  (c != 0 && (s.chan 0).dmaIrqEn) || (c != 1 && (s.chan 1).dmaIrqEn) || (c != 2 && (s.chan 2).dmaIrqEn)

/-- The per-channel actions of the symmetric STOP (R148). -/
def Channel.halt (x : Channel) : Channel :=
  { x with capEn := false, dmaArmed := false, dmaPend := false, dmaIrqEn := false }

/-- R148: StopSymmetric(c): the line stays on while another channel uses it. -/
def stopSymmetric (c : Chan) (s : State) : State :=
  { s.modChan c Channel.halt with lineEn := s.lineEn && othersIrq c s }

/-- R149: what STOP does instead where STOP_ASYMMETRIC is true. -/
def stopAsymmetric (c : Chan) (s : State) : State :=
  if c = 0 then
    { s.modChan c (fun x => { x with capEn := false, dmaArmed := false, dmaPend := false }) with lineEn := false }
  else s.modChan c (fun x => { x with capEn := false })

/-- R257: PDM bits, earliest first, as the list of a byte's bits from bit 0 on: each is put in among those sampled after
it, at the place `place` gives for their number. Every arrangement of the bits is that of some `place`. -/
def layPdmBits (place : Nat → Nat) : List Bool → List Bool
  | [] => []
  | b :: later => (layPdmBits place later).insertIdx (place later.length % (later.length + 1)) b

/-- The number whose bits from bit 0 on are `bits`. -/
def bitsValue : List Bool → Nat
  | [] => 0
  | b :: rest => b.toNat + 2 * bitsValue rest

/-- R257: eight consecutive PDM bits, earliest first, as the raw byte the front end delivers: the earliest in bit
`order`, the other seven as `later` places them (log 5). -/
def packPdm (order : PdmBitOrder) (later : Nat → Nat) (bits : List Bool) : Byte :=
  BitVec.ofNat 8 (bitsValue (layPdmBits (fun n => if n = 7 then order.val else later n) bits))

/-- R257: the DMA move of channel `c` after the front end has sampled eight PDM bits (log 5). -/
def Event.ofPdmBits (c : Chan) (bits : List Bool) : Event :=
  .dma c (packPdm Config.pdmBitOrder Config.pdmLaterPlace bits)

/-! ## Raw buffers and the filter -/

/-- `RawWrite(c, b, i, v)` (R12): a buffer that does not exist takes no byte (log 11). -/
def Channel.rawWrite (x : Channel) (b : BufIdx) (i : Nat) (v : Byte) : Channel :=
  { x with raw := x.raw.set b (x.raw[b].map (fun m => Memory.write m i v)) }

/-- Byte `i` of raw buffer `b`, if the buffer exists and the byte is written (R47). -/
def Channel.rawByte? (x : Channel) (b : BufIdx) (i : Nat) : Option Byte :=
  x.raw[b].bind (fun m => Memory.read m i)

/-- `RawRead(c, b, off, n)` (R12): `n` bytes in index order. An unwritten byte, which no reachable state reads
(R60 (c)), is a free value (log 11). -/
def rawRead (c : Chan) (x : Channel) (b : BufIdx) (off n : Nat) : List Byte :=
  (List.range n).map (fun i => (x.rawByte? b (off + i)).getD (Config.unwrittenByte c b (off + i)))

/-- `FilterApply`'s PCM: the `n` samples of a chunk in time order (R200). -/
def filterPcm (n : Nat) (bytes : List Byte) (vol : Half) (p : FilterParams) (st : FState) : List Half :=
  (List.range n).map (Config.filterSample bytes vol p st)

/-- The running state the filter is given: `ch[c].frs`, a free value where it is unset, which no reachable READ
meets (R60 (d); log 11). -/
def Channel.filterState (x : Channel) : FState := x.frs.getD Config.unsetState

/-- R83, R91: host memory admits a 2-byte write at `a`: the address space holds both bytes, and `writable` (the
parameter HostWritable) admits it (log 7). -/
def admits (writable : Nat → Nat → Bool) (a : Nat) : Bool := decide (a + 2 ≤ 2 ^ 32) && writable a 2

end Sys2Proof.Machine
end

