-- ==== Sys2Proof/Machine/Operands.lean ====
section
/-!
DEFINITION. Operand forms: the channel operand and its check (R111, R125), READ's stride and sample count (R201),
INIT's staged configuration (R39, R140), and the register names of the register map (R32).
-/

namespace Sys2Proof.Machine

/-- R111: the channel operand is `zext_32(word[5:4])`; 3 names no channel (R125). -/
def chanOf (ch : BitVec 2) : Option Chan :=
  if h : ch.toNat < 3 then some ⟨ch.toNat, h⟩ else none

/-- R303 (4), R125: CH = 3 is INVALID_CHANNEL, before the command's own checks. -/
def onChannel (ch : BitVec 2) (body : Chan → State → State) (s : State) : State :=
  match chanOf ch with
  | none => raise .invalidChannel s
  | some c => body c s

/-- A host write of the CMD word of a command on CH `ch`: accepted (R302), the channel checked (R303 (4)), then the
command's own rule. -/
def command (ch : BitVec 2) (body : Chan → State → State) (s : State) : Out := accept (onChannel ch body) s

/-- R15, D14: `stride = rate / 1000`, floor. -/
def strideOf (rate : Word) : Nat := rate.toNat / 1000

/-- The stride of a channel's latched configuration (R201). -/
def Channel.stride (x : Channel) : Nat := strideOf x.cfg.rate

/-- R203: `L = s * (D / 8)`: raw bytes per chunk. -/
def Channel.chunkBytes (x : Channel) : Nat := x.stride * Config.bytesPerSample

/-- R46: `raw_size = bufsz * (D / 8)`, exact. -/
def rawSizeOf (bufsz : Word) : Nat := bufsz.toNat * Config.bytesPerSample

/-- R201: `n = min((max / stride) * stride, bufsz)`. -/
def sampleCount (cfg : ChanConfig) (max : Word) : Nat :=
  min (max.toNat / strideOf cfg.rate * strideOf cfg.rate) cfg.bufsz.toNat

/-- R39, R140: the configuration the staging registers hold. -/
def stagedConfig (st : Staging) : ChanConfig :=
  { rate := st.rate, bufsz := st.bufsz, dataPin := st.pins.extractLsb' 0 8, clkPin := st.pins.extractLsb' 8 8,
    pio := st.pins.extractLsb' 16 4, sm := st.pins.extractLsb' 20 4 }

/-- R140, R46: the configuration check of INIT: a whole number of 1 ms frames, of at least one sample each. -/
def ChanConfig.valid (cfg : ChanConfig) : Bool :=
  decide (strideOf cfg.rate ≠ 0) && decide (cfg.bufsz.toNat % strideOf cfg.rate = 0)

/-- The registers of the register map (R32). `reserved0` and `reserved1` are the offsets 0x18 and 0x1C (R43). -/
inductive Reg where
  | cmd
  | status
  | result
  | arg0
  | arg1
  | irqStat
  | reserved0
  | reserved1
  | cfgRate (c : Chan)
  | cfgBufsz (c : Chan)
  | cfgPins (c : Chan)
  | chStat (c : Chan)
  | pendCount (c : Chan)
  | filtMaxv (c : Chan)
  | filtGain (c : Chan)
  | filtVol (c : Chan)
deriving DecidableEq, Repr

/-- R32: the byte offset of a register; `CHBASE(c) = 0x20 + 0x20 * c`. -/
def Reg.offset : Reg → Nat
  | .cmd => 0x00
  | .status => 0x04
  | .result => 0x08
  | .arg0 => 0x0C
  | .arg1 => 0x10
  | .irqStat => 0x14
  | .reserved0 => 0x18
  | .reserved1 => 0x1C
  | .cfgRate c => 0x20 + 0x20 * c.val + 0x00
  | .cfgBufsz c => 0x20 + 0x20 * c.val + 0x04
  | .cfgPins c => 0x20 + 0x20 * c.val + 0x08
  | .chStat c => 0x20 + 0x20 * c.val + 0x0C
  | .pendCount c => 0x20 + 0x20 * c.val + 0x10
  | .filtMaxv c => 0x20 + 0x20 * c.val + 0x14
  | .filtGain c => 0x20 + 0x20 * c.val + 0x18
  | .filtVol c => 0x20 + 0x20 * c.val + 0x1C

/-- The register of a channel's window at index `j` (R32). -/
def windowReg (c : Chan) (j : Nat) : Option Reg :=
  match j with
  | 0 => some (.cfgRate c)
  | 1 => some (.cfgBufsz c)
  | 2 => some (.cfgPins c)
  | 3 => some (.chStat c)
  | 4 => some (.pendCount c)
  | 5 => some (.filtMaxv c)
  | 6 => some (.filtGain c)
  | 7 => some (.filtVol c)
  | _ => none

/-- The register at word index `j` of the block, `offset = 4 * j` (R32). -/
def regAtIndex (j : Nat) : Option Reg :=
  match j with
  | 0 => some .cmd
  | 1 => some .status
  | 2 => some .result
  | 3 => some .arg0
  | 4 => some .arg1
  | 5 => some .irqStat
  | 6 => some .reserved0
  | 7 => some .reserved1
  | j => if j < 16 then windowReg 0 (j - 8) else if j < 24 then windowReg 1 (j - 16) else windowReg 2 (j - 24)

/-- R81, R84: the register a host access reaches, or why it has none (R85; log 16). -/
def regAt (off size : Nat) : Except Fault Reg :=
  if 0x80 ≤ off then .error .outsideBlock
  else if size = 4 ∧ off % 4 = 0 then
    match regAtIndex (off / 4) with
    | some r => .ok r
    | none => .error .outsideBlock
  else .error .unadmittedAccess

/-- R81, R93: the offset of a bus address from REG_BASE (log 1). -/
def busOffset (a : Addr) : Nat := (a - Config.regBase).toNat

/-- R87: the byte address of byte `j` of a register; `regByte` is the byte there. -/
def Reg.byteAddress (r : Reg) (j : Nat) : Addr := Config.regBase + BitVec.ofNat 32 (r.offset + j)

end Sys2Proof.Machine
end

