-- ==== Sys2Proof/Machine/Capture.lean ====
section
/-!
DEFINITION. The DMA byte step and the completion handler (45_capture_completion.md).
-/

namespace Sys2Proof.Machine

/-- R250: the capture agent's step is enabled. -/
def Channel.capturing (x : Channel) : Bool := x.dmaArmed && x.capEn

/-- R250: one byte into the target buffer; the last one ends the transfer. -/
def Channel.dmaByte (x : Channel) (v : Byte) : Channel :=
  let x' := { x.rawWrite x.w x.dmaProg v with dmaProg := x.dmaProg + 1 }
  if x.dmaProg + 1 = x.rawSize then { x' with dmaArmed := false, dmaPend := true } else x'

/-- R250: the DMA byte step of channel `c`; a move of a disabled agent does nothing (log 3). -/
def dmaStep (c : Chan) (v : Byte) (s : State) : State :=
  if (s.chan c).capturing then s.modChan c (fun x => x.dmaByte v) else s

/-- R251: channel `x` asks for the completion handler. -/
def Channel.completionDue (x : Channel) : Bool := x.dmaPend && x.dmaIrqEn

/-- R251 (a): the lowest channel id with a due completion. -/
def dueChannel (s : State) : Option Chan :=
  if (s.chan 0).completionDue then some 0
  else if (s.chan 1).completionDue then some 1
  else if (s.chan 2).completionDue then some 2
  else none

/-- R251 (b) to (e): the pending flag cleared, the finished buffer published, the write index advanced, the DMA
re-armed. -/
def Channel.swap (x : Channel) : Channel :=
  Channel.arm { x with dmaPend := false, r := x.w, w := x.w + 1 }

/-- R253: the overrun conditions of a completion of `c`: *lost*, an unconsumed buffer is retired, or *hit*, the DMA
is re-armed into the buffer a READ of `c` is decoding. -/
def overrun (c : Chan) (s : State) : Bool :=
  let x := s.chan c
  decide (x.r ≠ x.w) || (s.rd.busy && decide (s.rd.ch = c) && decide (s.rd.buf = x.w + 1))

/-- R251: the completion of channel `c` is serviced. -/
def serviceCompletion (c : Chan) (s : State) : State :=
  s.modChan c (fun x =>
    { x.swap with
      ovr := x.ovr || overrun c s
      pendCount := x.pendCount + 1#32
      readyPend := x.readyPend || x.readyEn })

/-- R251: the completion handler's step; a move of a disabled agent does nothing (log 3). -/
def handlerStep (s : State) : State :=
  if s.lineEn then
    match dueChannel s with
    | some c => serviceCompletion c s
    | none => s
  else s

end Sys2Proof.Machine
end

