-- ==== Sys2Proof/Machine/FilterConfig.lean ====
section
/-!
DEFINITION. SETRDY, SETMAXV, SETGAIN and SETVOL (41_filter_config.md).
-/

namespace Sys2Proof.Machine

/-- A setter (R180 to R183): BAD_STATE when UNINIT, else one change of the channel, ERR = OK and RESULT = 0. -/
def setter (f : Channel → Channel) (c : Chan) (s : State) : State :=
  whenInit c (fun s => finish (s.modChan c f)) s

/-- SETRDY (R116, R180). -/
def execSetrdy (ch : BitVec 2) (en : Bool) (s : State) : Out :=
  command ch (setter (fun x => { x with readyEn := en })) s

/-- SETMAXV (R117, R181). -/
def execSetmaxv (ch : BitVec 2) (imm : Half) (s : State) : Out :=
  command ch (setter (fun x => { x with fp := { x.fp with maxv := imm } })) s

/-- SETGAIN (R118, R182). -/
def execSetgain (ch : BitVec 2) (imm : Half) (s : State) : Out :=
  command ch (setter (fun x => { x with fp := { x.fp with gain := imm } })) s

/-- SETVOL (R119, R183). -/
def execSetvol (ch : BitVec 2) (imm : Half) (s : State) : Out :=
  command ch (setter (fun x => { x with vol := imm })) s

end Sys2Proof.Machine
end

