-- ==== Sys2Proof/Machine/Lifecycle.lean ====
section
/-!
DEFINITION. INIT, DEINIT, START and STOP (40_lifecycle.md).
-/

namespace Sys2Proof.Machine

/-- R143: the filter defaults INIT sets. -/
def defaultFilterParams (rate : Word) : FilterParams :=
  { fs := rate, lp := Config.lpCutoff rate, hp := Config.hpCutoff rate, nch := Config.micChannels,
    dec := Config.decimation, maxv := Config.defMaxv, gain := Config.defGain }

/-- R142: the clock divisor of a configuration. -/
def divisorOf (cfg : ChanConfig) : Nat := Config.clkdivFn Config.fSys cfg.rate Config.decimation

/-- The channel a successful INIT leaves (R140): every field of `ch[c]`, both raw buffers unwritten. -/
def initialisedChannel (cfg : ChanConfig) : Channel :=
  { Channel.reset with
    lstate := .idle, cfg := cfg, rawSize := rawSizeOf cfg.bufsz, clkdiv := divisorOf cfg,
    raw := #v[some [], some []], holdsBuf := #v[true, true], holdsDma := true,
    fp := defaultFilterParams cfg.rate, vol := Config.defVol }

/-- R142: ProgramCapture(c): what the front end is loaded with (log 19). -/
def programCapture (c : Chan) (cfg : ChanConfig) (s : State) : State :=
  { s with frontEnd := s.frontEnd.set c (some
      { pio := cfg.pio, sm := cfg.sm, dataPin := cfg.dataPin, clkPin := cfg.clkPin, divisor := divisorOf cfg }) }

/-- R140, R141: the resources of INIT in order: buffer 0, buffer 1, the DMA resource. A failure leaves the channel
as it was, holding nothing. -/
def acquire (c : Chan) (cfg : ChanConfig) (s : State) : State :=
  let size := rawSizeOf cfg.bufsz
  let buf0 := drawAlloc c 0 size s
  if buf0.1 = false then raise .allocationError buf0.2
  else
    let buf1 := drawAlloc c 1 size buf0.2
    if buf1.1 = false then raise .allocationError buf1.2
    else
      let dma := drawDma c buf1.2
      if dma.1 = false then raise .resourceExhausted dma.2
      else finish (programCapture c cfg (dma.2.setChan c (initialisedChannel cfg)))

/-- R140: INIT c. -/
def initChannel (c : Chan) (s : State) : State :=
  if (s.chan c).lstate ≠ .uninit then raise .badState s
  else
    let cfg := stagedConfig (s.stage c)
    if cfg.valid = false then raise .configError s else acquire c cfg s

/-- INIT (R112, R140). -/
def execInit (ch : BitVec 2) (s : State) : Out := command ch initChannel s

/-- R144, R145: DEINIT c. An ACTIVE channel is first stopped as the symmetric STOP stops it; R144's own four lines on
the capture, the DMA and the line are those same actions, done for an IDLE channel too. -/
def deinitChannel (c : Chan) (s : State) : State :=
  if (s.chan c).lstate = .uninit then finish s
  else
    let stopped := if (s.chan c).lstate = .active then stopSymmetric c s else s
    let s' := stopSymmetric c stopped
    finish (s'.setChan c Channel.reset)

/-- DEINIT (R113, R144). -/
def execDeinit (ch : BitVec 2) (s : State) : Out := command ch deinitChannel s

/-- R146: the channel START leaves. -/
def startedChannel (x : Channel) : Channel :=
  let armed := Channel.arm
    { x with frs := some (Config.filterInit x.fp), w := 0, r := 0, dmaPend := false, pendCount := 0#32,
             readyPend := false, ovr := false, dmaIrqEn := true }
  { armed with capEn := true, lstate := .active }

/-- R146: START c. -/
def startChannel (c : Chan) (s : State) : State :=
  if (s.chan c).lstate ≠ .idle then raise .badState s
  else finish { s.modChan c startedChannel with lineEn := true }

/-- START (R114, R146). -/
def execStart (ch : BitVec 2) (s : State) : Out := command ch startChannel s

/-- R148, R149: STOP c; `asymmetric` is the parameter STOP_ASYMMETRIC. -/
def stopChannel (asymmetric : Bool) (c : Chan) (s : State) : State :=
  match (s.chan c).lstate with
  | .uninit => raise .badState s
  | .idle => finish s
  | .active =>
      let stopped := if asymmetric then stopAsymmetric c s else stopSymmetric c s
      finish (stopped.modChan c (fun x => { x with lstate := .idle }))

/-- STOP (R115, R148). -/
def execStop (ch : BitVec 2) (s : State) : Out := command ch (stopChannel Config.stopAsymmetric) s

end Sys2Proof.Machine
end

