-- ==== Sys2Proof/Machine/Notification.lean ====
section
/-!
DEFINITION. ACK (43_notification.md).
-/

namespace Sys2Proof.Machine

/-- R230: ACK c: RESULT takes the samples-ready counter and the counter is cleared, in one step. -/
def ackChannel (c : Chan) (s : State) : State :=
  whenInit c (fun s => report .ok (s.chan c).pendCount (s.modChan c (fun x => { x with pendCount := 0#32 }))) s

/-- ACK (R121, R230). -/
def execAck (ch : BitVec 2) (s : State) : Out := command ch ackChannel s

end Sys2Proof.Machine
end

