-- ==== Sys2Proof/Machine/ReadDecode.lean ====
section
/-!
DEFINITION. READ and the read engine's chunk step (42_read_decode.md).
-/

namespace Sys2Proof.Machine

/-- R202, after the state check: alignment, range, empty, then consume and begin. -/
def beginRead (c : Chan) (s : State) : State :=
  let x := s.chan c
  let n := sampleCount x.cfg s.arg1
  if s.arg0.getLsbD 0 then raise .misaligned s
  else if 2 ^ 32 < s.arg0.toNat + 2 * n then raise .addressRange s
  else if x.r = x.w then finish s
  else
    let consumed := finish (s.modChan c (fun x => { x with r := x.r + 1 }))
    if n = 0 then consumed
    else { consumed with rd := { busy := true, ch := c, buf := x.r, addr := s.arg0, n := n, k := 0 } }

/-- R202: READ c. -/
def readChannel (c : Chan) (s : State) : State := whenInit c (beginRead c) s

/-- READ (R120, R202). -/
def execRead (ch : BitVec 2) (s : State) : Out := command ch readChannel s

/-- R203: the address of the first sample of the chunk the read engine does next. -/
def chunkBase (s : State) : Nat := s.rd.addr.toNat + 2 * (s.rd.k * (s.chan s.rd.ch).stride)

/-- R203: the raw bytes of the chunk the read engine does next. -/
def chunkRaw (s : State) : List Byte :=
  let x := s.chan s.rd.ch
  rawRead s.rd.ch x s.rd.buf (s.rd.k * x.chunkBytes) x.chunkBytes

/-- R203: the PCM samples of the chunk the read engine does next. -/
def chunkPcm (s : State) : List Half :=
  let x := s.chan s.rd.ch
  filterPcm x.stride (chunkRaw s) x.vol x.fp x.filterState

/-- R91: host memory admits every write of the chunk. -/
def chunkAdmitted (writable : Nat → Nat → Bool) (s : State) : Bool :=
  (List.range (s.chan s.rd.ch).stride).all (fun j => admits writable (chunkBase s + 2 * j))

/-- R203: the running state after the chunk. -/
def chunkFilterState (s : State) : FState :=
  let x := s.chan s.rd.ch
  Config.filterNext (chunkRaw s) x.vol x.fp x.filterState

/-- R203: the chunk's writes and the engine's counter, and, after the last chunk, BUSY, RESULT and ERR. -/
def performChunk (s : State) : State :=
  let s' :=
    { s.modChan s.rd.ch (fun x => { x with frs := some (chunkFilterState s) }) with
      mem := Memory.writeSamples s.mem (chunkBase s) (chunkPcm s)
      openRanges := settle (chunkBase s) (chunkBase s + 2 * (s.chan s.rd.ch).stride) s.openRanges
      rd := { s.rd with k := s.rd.k + 1 } }
  if (s.rd.k + 1) * (s.chan s.rd.ch).stride = s.rd.n then
    report .ok (BitVec.ofNat 32 s.rd.n) { s' with rd := { s'.rd with busy := false } }
  else s'

/-- R203: the read engine's chunk step, for a given HostWritable. It is enabled while `rd.busy = 1`; a move of a
disabled agent does nothing (log 3). A refused write refuses the whole chunk (R91). -/
def chunkStep (writable : Nat → Nat → Bool) (s : State) : State :=
  if s.rd.busy then (if chunkAdmitted writable s then performChunk s else enterBusFault s) else s

end Sys2Proof.Machine
end

