-- ==== Sys2Proof/Machine/Dispatch.lean ====
section
/-!
DEFINITION. The meaning of each command: one arm per row of spec/opcode_table.json.
-/

namespace Sys2Proof.Machine

def exec (i : Instr) (s : State) : Host.Outcome State Fault Refusal :=
  match i with
  | .init ch => Sys2Proof.Machine.execInit ch s
  | .deinit ch => Sys2Proof.Machine.execDeinit ch s
  | .start ch => Sys2Proof.Machine.execStart ch s
  | .stop ch => Sys2Proof.Machine.execStop ch s
  | .setrdy ch en => Sys2Proof.Machine.execSetrdy ch en s
  | .setmaxv ch imm => Sys2Proof.Machine.execSetmaxv ch imm s
  | .setgain ch imm => Sys2Proof.Machine.execSetgain ch imm s
  | .setvol ch imm => Sys2Proof.Machine.execSetvol ch imm s
  | .read ch => Sys2Proof.Machine.execRead ch s
  | .ack ch => Sys2Proof.Machine.execAck ch s

end Sys2Proof.Machine
end

