-- ==== Sys2Proof/Machine/Flags.lean ====
section
/-!
DEFINITION. The status and flag words the host reads (R34, R37, R40), the write-1-to-clear of IRQ_STAT (R231), and
the READY_IRQ output (R232).
-/

namespace Sys2Proof.Machine

/-- R300: the number of an error code. -/
def ErrCode.code : ErrCode → BitVec 8
  | .ok => 0#8
  | .configError => 1#8
  | .allocationError => 2#8
  | .resourceExhausted => 3#8
  | .invalidChannel => 4#8
  | .illegalCommand => 5#8
  | .badState => 6#8
  | .misaligned => 7#8
  | .addressRange => 8#8
  | .busFault => 9#8

/-- R34: STATUS: ERR in bits 15:8, FAULT bit 2, LOST bit 1, BUSY bit 0, the rest 0. -/
def statusWord (s : State) : Word :=
  0#16 ++ s.err.code ++ 0#5 ++ BitVec.ofBool s.fault ++ BitVec.ofBool s.lost ++ BitVec.ofBool s.rd.busy

/-- R40: LSTATE: 0 UNINIT, 1 IDLE, 2 ACTIVE. -/
def LState.code : LState → BitVec 2
  | .uninit => 0#2
  | .idle => 1#2
  | .active => 2#2

/-- R40: CH_STAT of channel `c`. -/
def chStatWord (s : State) (c : Chan) : Word :=
  let x := s.chan c
  0#22 ++ BitVec.ofBool s.lineEn ++ BitVec.ofBool x.dmaIrqEn ++ BitVec.ofBool x.capEn ++ BitVec.ofBool x.readyEn ++
    BitVec.ofBool x.dmaArmed ++ BitVec.ofBool x.dmaPend ++ BitVec.ofNat 1 x.r.val ++ BitVec.ofNat 1 x.w.val ++
    x.lstate.code

/-- R37: IRQ_STAT: READY_PEND in bits 2:0, OVR in bits 10:8, the rest 0. -/
def irqStatWord (s : State) : Word :=
  0#21 ++ BitVec.ofBool (s.chan 2).ovr ++ BitVec.ofBool (s.chan 1).ovr ++ BitVec.ofBool (s.chan 0).ovr ++ 0#5 ++
    BitVec.ofBool (s.chan 2).readyPend ++ BitVec.ofBool (s.chan 1).readyPend ++ BitVec.ofBool (s.chan 0).readyPend

/-- R231: what a write of `v` to IRQ_STAT does to channel `c`'s two bits: each written with 1 is cleared. -/
def Channel.clearIrqBits (v : Word) (c : Chan) (x : Channel) : Channel :=
  { x with readyPend := x.readyPend && !v.getLsbD c.val, ovr := x.ovr && !v.getLsbD (8 + c.val) }

/-- R231: a write of `v` to IRQ_STAT. -/
def clearIrqStat (v : Word) (s : State) : State :=
  ((s.modChan 0 (Channel.clearIrqBits v 0)).modChan 1 (Channel.clearIrqBits v 1)).modChan 2 (Channel.clearIrqBits v 2)

/-- R232, R311: the READY_IRQ output. -/
def readyIrq (s : State) : Bool := (s.chan 0).readyPend || (s.chan 1).readyPend || (s.chan 2).readyPend

end Sys2Proof.Machine
end

