-- ==== Sys2Proof/Machine/Registers.lean ====
section
/-!
DEFINITION. Register reads and the register writes that issue no command (R33 to R43, R86).
-/

namespace Sys2Proof.Machine

/-- The value a register reads as (R33 to R43). -/
def readReg (s : State) : Reg → Word
  | .cmd => 0#32
  | .status => statusWord s
  | .result => s.result
  | .arg0 => s.arg0
  | .arg1 => s.arg1
  | .irqStat => irqStatWord s
  | .reserved0 => 0#32
  | .reserved1 => 0#32
  | .cfgRate c => (s.stage c).rate
  | .cfgBufsz c => (s.stage c).bufsz
  | .cfgPins c => 0#8 ++ (s.stage c).pins
  | .chStat c => chStatWord s c
  | .pendCount c => (s.chan c).pendCount
  | .filtMaxv c => 0#16 ++ (s.chan c).fp.maxv
  | .filtGain c => 0#16 ++ (s.chan c).fp.gain
  | .filtVol c => 0#16 ++ (s.chan c).vol

/-- R87: byte `j` (0 to 3) of a register, at byte address `r.byteAddress j`: it holds bits `8j+7 : 8j`. No access sees
it alone (R85). -/
def regByte (s : State) (r : Reg) (j : Nat) : Byte := (readReg s r).extractLsb' (8 * j) 8

/-- R86: a write to a register other than CMD: stored, write-1-to-clear, or ignored. -/
def storeReg (s : State) (r : Reg) (v : Word) : State :=
  match r with
  | .arg0 => { s with arg0 := v }
  | .arg1 => { s with arg1 := v }
  | .irqStat => clearIrqStat v s
  | .cfgRate c => s.modStage c (fun x => { x with rate := v })
  | .cfgBufsz c => s.modStage c (fun x => { x with bufsz := v })
  | .cfgPins c => s.modStage c (fun x => { x with pins := v.extractLsb' 0 24 })
  | .cmd => s
  | .status => s
  | .result => s
  | .reserved0 => s
  | .reserved1 => s
  | .chStat _ => s
  | .pendCount _ => s
  | .filtMaxv _ => s
  | .filtGain _ => s
  | .filtVol _ => s

end Sys2Proof.Machine
end

