-- ==== Sys2Proof/Machine/Moves.lean ====
section
/-!
DEFINITION. The moves of the agents (R320): the host's register accesses, a CMD write among them, its accesses to
host memory, the capture agents, the completion handler, the read engine, and reset.
-/

namespace Sys2Proof.Machine

/-- R302, R303: a host write of `w` to CMD: the command `w` encodes, or ILLEGAL_COMMAND when it encodes none. -/
def issue (w : Word) (s : State) : Out :=
  match decode w with
  | .instr i => exec i s
  | .illegal _ => accept (raise .illegalCommand) s

/-- R84, R86: a host write to the register space. -/
def hostWrite (off size : Nat) (v : Word) (s : State) : Out :=
  match regAt off size with
  | .error f => .fault f
  | .ok .cmd => issue v s
  | .ok r => .next (storeReg s r v)

/-- R84, R86: a host read of the register space; `hostData` takes the value, and nothing else changes. -/
def hostRead (off size : Nat) (s : State) : Out :=
  match regAt off size with
  | .error f => .fault f
  | .ok r => .next { s with hostData := readReg s r }

/-- The output range of a READ: the `2 * n` bytes from its address on (R206). -/
def ReadEngine.range (rd : ReadEngine) : OpenRange := { lo := rd.addr.toNat, hi := rd.addr.toNat + 2 * rd.n }

/-- The ranges whose content is any value to the host: the output range of the READ in progress (R208), and what is
left of those a reset abandoned (R340; log 10). -/
def anyValueRanges (s : State) : List OpenRange :=
  if s.rd.busy then s.rd.range :: s.openRanges else s.openRanges

/-- The byte host memory holds at `a`: the one last written, or, where nothing has written it, whatever the memory
held before (log 8). -/
def hostByte (s : State) (a : Addr) : Byte := (s.mem.read a.toNat).getD (Config.hostMemInit a)

/-- The host loads a byte of host memory: any value inside the output range of a READ in progress (R208) or abandoned
(R340), else what the memory holds (R95, R96); log 9, log 10. DESIGN CHOICE (log 23): the load sees memory itself, the
host's duty of R100 (to make the block's writes visible to its own reads, where it caches memory) being taken as met. -/
def hostLoad (a : Addr) (s : State) : State :=
  if isOpen (anyValueRanges s) a.toNat then { s with hostData := 0#24 ++ Config.outputByte s.draws, draws := s.draws + 1 }
  else { s with hostData := 0#24 ++ hostByte s a }

/-- The host stores a byte into host memory (R353 is a duty it can break, R360; log 9). DESIGN CHOICE (log 22): the
store is done at every address; `HostWritable` is asked for the block's own writes only (R83, R91). -/
def hostStore (a : Addr) (v : Byte) (s : State) : State :=
  { s with mem := s.mem.write a.toNat v, openRanges := settle a.toNat (a.toNat + 1) s.openRanges }

/-- R340: the block's reset. Host memory and the front end are outside the block (R59); the model's inputs and the
host's last read are not the block's (log 17). The output range of a READ it abandons is any value to the host until
it is written again (log 10). -/
def resetBlock (s : State) : State :=
  { State.reset with
    mem := s.mem, openRanges := anyValueRanges s, frontEnd := s.frontEnd, agenda := s.agenda, answers := s.answers,
    draws := s.draws, hostData := s.hostData }

/-- One move. After FAULT only reset has a step (R306). -/
def runEvent (e : Event) (s : State) : Out :=
  match e with
  | .reset => .next (resetBlock s)
  | .write off size v => if s.fault then .fault .busFault else hostWrite off size v s
  | .read off size => if s.fault then .fault .busFault else hostRead off size s
  | .dma c v => if s.fault then .fault .busFault else .next (dmaStep c v s)
  | .irq => if s.fault then .fault .busFault else .next (handlerStep s)
  | .chunk => if s.fault then .fault .busFault else .next (chunkStep Config.hostWritable s)
  | .memStore a v => if s.fault then .fault .busFault else .next (hostStore a v s)
  | .memLoad a => if s.fault then .fault .busFault else .next (hostLoad a s)

/-- The move that comes next: the head of the agenda, or, where none is listed, any move at all, a free value
(R312; log 2). -/
def takeEvent (s : State) : Event × State :=
  match s.agenda with
  | e :: rest => (e, { s with agenda := rest })
  | [] => (Config.nextEvent s.draws, { s with draws := s.draws + 1 })

/-- The host writes `w` to CMD as the next move (R33). -/
def queueCommand (w : Word) (s : State) : State :=
  { s with agenda := .write Reg.cmd.offset 4 w :: s.agenda }

end Sys2Proof.Machine
end

