-- ==== Sys2Proof/Machine/Step.lean ====
section
/-!
DEFINITION. One step of the machine: the next move of any agent (R13, R312, R320).
-/

namespace Sys2Proof.Machine

/-- One atomic step: take the next move and run it. -/
def step (s : State) : Host.Outcome State Fault Refusal :=
  runEvent (takeEvent s).1 (takeEvent s).2

/-- The state whose next move is the host's CMD write of the word `w` (log 2): the block fetches nothing (R31), and
a command is the value written to CMD. -/
def State.withFetchWord (s : State) (nbits w : Nat) : State :=
  queueCommand (BitVec.ofNat 32 (w % 2 ^ nbits)) s

end Sys2Proof.Machine
end

