-- ==== Sys2Proof/Safety.lean ====
section
/-!
DEFINITION. The words the claims use: what a command leaves unchanged, the invariant of the block (R60 and what it
rests on), the states reachable from reset, and the samples of a whole READ (R204).
-/

namespace Sys2Proof.Machine

/-- R302: a CMD write in this state is accepted. -/
abbrev State.accepting (s : State) : Prop := s.fault = false ∧ s.rd.busy = false

/-- What every command leaves alone whatever it does: FAULT, ARG0, ARG1, the staging registers, every byte of host
memory and which of them are any value to the host, and the outside world's lists. -/
def commandFrame (s t : State) : Prop :=
  t.fault = s.fault ∧ t.arg0 = s.arg0 ∧ t.arg1 = s.arg1 ∧ t.staging = s.staging ∧ t.agenda = s.agenda ∧
    t.hostData = s.hostData ∧ t.openRanges = s.openRanges ∧ ∀ a, t.mem.read a = s.mem.read a

/-- Every channel but `c` is unchanged (R321): its registers, its raw buffers, its flags. -/
def otherChannels (c : Chan) (s t : State) : Prop := ∀ x, x ≠ c → t.chan x = s.chan x

/-- The environment's draws are untouched. -/
def noDraw (s t : State) : Prop := t.answers = s.answers ∧ t.draws = s.draws

/-- An accepted command that only reports: ERR, RESULT and the cleared LOST, and nothing else (R301, R302). -/
def reportOnly (e : ErrCode) (s : State) : State := { s with lost := false, err := e, result := 0#32 }

/-- The OP field of a command word, as a number (R110). -/
def wordOp (w : Word) : Nat := w.toNat % 16

/-- The RSV field of a command word, as a number (R110). -/
def wordRsv (w : Word) : Nat := w.toNat / 64 % 1024

/-- The IMM16 field of a command word, as a number (R110). -/
def wordImm (w : Word) : Nat := w.toNat / 65536

/-- R122: OP 0x0 and 0xB to 0xF are reserved. -/
abbrev wordReserved (w : Word) : Prop := wordOp w = 0 ∨ 11 ≤ wordOp w

/-- R124: IMM16 violates its opcode's constraint. -/
abbrev wordImmViolated (w : Word) : Prop :=
  ((wordOp w = 1 ∨ wordOp w = 2 ∨ wordOp w = 3 ∨ wordOp w = 4 ∨ wordOp w = 9 ∨ wordOp w = 10) ∧ wordImm w ≠ 0) ∨
    (wordOp w = 5 ∧ wordImm w / 2 ≠ 0)

/-- R59: every piece of the block's state has its reset value: every register reads 0, and every hidden field is 0,
unset or absent. -/
def State.atResetValues (s : State) : Prop :=
  (∀ r : Reg, readReg s r = 0#32) ∧
  s.lost = false ∧ s.fault = false ∧ s.err = .ok ∧ s.lineEn = false ∧
  s.rd = { busy := false, ch := 0, buf := 0, addr := 0#32, n := 0, k := 0 } ∧
  ∀ c : Chan, s.chan c =
    { lstate := .uninit, w := 0, r := 0,
      cfg := { rate := 0#32, bufsz := 0#32, dataPin := 0#8, clkPin := 0#8, pio := 0#4, sm := 0#4 },
      rawSize := 0, clkdiv := 0, raw := #v[none, none], holdsBuf := #v[false, false], holdsDma := false,
      dmaArmed := false, dmaProg := 0, dmaPend := false, dmaIrqEn := false, capEn := false, readyEn := false,
      pendCount := 0#32, readyPend := false, ovr := false,
      fp := { fs := 0#32, lp := 0, hp := 0, nch := 0, dec := 0, maxv := 0#16, gain := 0#16 },
      vol := 0#16, frs := none }

/-- Nothing but the channels differs between `s` and `t`: no register, no flag of the block, no byte of host
memory, nothing on the outside world's lists. -/
def onlyChannels (s t : State) : Prop := { t with chans := s.chans } = s

/-- Every byte of raw buffer `b` below index `n` is written. -/
def Channel.writtenBelow (x : Channel) (b : BufIdx) (n : Nat) : Prop := ∀ i, i < n → (x.rawByte? b i).isSome = true

/-- What holds of a channel in every reachable state (R44, R46 to R49, R60). -/
structure ChannelInv (x : Channel) : Prop where
  /-- an UNINIT channel has every reset value (R140, R144) -/
  uninitIsReset : x.lstate = .uninit → x = Channel.reset
  /-- the latched configuration passed INIT's check (R46) -/
  configValid : x.lstate ≠ .uninit → x.cfg.valid = true
  /-- R46 -/
  rawSizeLatched : x.lstate ≠ .uninit → x.rawSize = rawSizeOf x.cfg.bufsz
  /-- R47, R48: both buffers and the DMA resource are held -/
  resourcesHeld : x.lstate ≠ .uninit →
    x.holdsBuf = #v[true, true] ∧ x.holdsDma = true ∧ ∀ b : BufIdx, (x.raw[b]).isSome = true
  /-- a raw buffer lists written bytes of its `raw_size` bytes only (R47, R250) -/
  rawCanonical : ∀ (b : BufIdx) (m : Memory), x.raw[b] = some m → m.sorted ∧ m.below x.rawSize
  /-- R60 (a) -/
  pendingNotArmed : x.dmaPend = true → x.dmaArmed = false
  /-- a channel that is not ACTIVE neither captures nor asks for the handler (R60 (b), R260) -/
  quietUnlessActive : x.lstate ≠ .active →
    x.capEn = false ∧ x.dmaIrqEn = false ∧ x.dmaArmed = false ∧ x.dmaPend = false
  /-- R44: ACTIVE: DMA armed or pending, capture enabled, filter initialised -/
  activeCaptures : x.lstate = .active →
    x.capEn = true ∧ x.dmaIrqEn = true ∧ (x.dmaArmed = true ∨ x.dmaPend = true) ∧ x.frs.isSome = true
  /-- R49, R250: a transfer in progress has room left, and its bytes so far are written -/
  armedProgress : x.dmaArmed = true → x.dmaProg < x.rawSize ∧ x.writtenBelow x.w x.dmaProg
  /-- a finished transfer filled its buffer -/
  pendingFilled : x.dmaPend = true → x.writtenBelow x.w x.rawSize
  /-- R60 (c) -/
  publishedFilled : x.r ≠ x.w → x.writtenBelow x.r x.rawSize
  /-- R60 (d) -/
  publishedFilter : x.frs = none → x.r = x.w

/-- What holds of the read engine while it is busy (R89, R90, R201 to R203). -/
structure ReadInv (s : State) : Prop where
  initialised : s.rd.busy = true → (s.chan s.rd.ch).lstate ≠ .uninit
  filterSet : s.rd.busy = true → (s.chan s.rd.ch).frs.isSome = true
  aligned : s.rd.busy = true → s.rd.addr.toNat % 2 = 0
  inRange : s.rd.busy = true → s.rd.addr.toNat + 2 * s.rd.n ≤ 2 ^ 32
  wholeChunks : s.rd.busy = true → s.rd.n % (s.chan s.rd.ch).stride = 0
  capped : s.rd.busy = true → s.rd.n ≤ (s.chan s.rd.ch).cfg.bufsz.toNat
  chunkLeft : s.rd.busy = true → s.rd.k * (s.chan s.rd.ch).stride < s.rd.n
  bufferFilled : s.rd.busy = true → (s.chan s.rd.ch).writtenBelow s.rd.buf (s.chan s.rd.ch).rawSize

/-- The invariant of the block. -/
structure BlockInv (s : State) : Prop where
  channels : ∀ c, ChannelInv (s.chan c)
  reading : ReadInv s
  /-- R51, R148: the shared line is on exactly while some channel uses it -/
  line : s.lineEn = ((s.chan 0).dmaIrqEn || (s.chan 1).dmaIrqEn || (s.chan 2).dmaIrqEn)
  /-- host memory keeps its canonical form -/
  memory : s.mem.wf
  /-- R306: the fault outcome is entered by a chunk only -/
  faulted : s.fault = true → s.rd.busy = true ∧ s.err = .busFault

/-- The states the block can reach from reset, whatever the outside world does: at any time it may put other moves
on the agenda and other answers on the list. -/
inductive Reachable : State → Prop where
  | reset : Reachable State.reset
  | inputs (s : State) (agenda : List Event) (answers : List Bool) (h : Reachable s) :
      Reachable { s with agenda := agenda, answers := answers }
  | step (s t : State) (h : Reachable s) (ht : step s = .next t) : Reachable t

/-- `k` chunk steps of the read engine with nothing between them. -/
def chunkSteps (writable : Nat → Nat → Bool) : Nat → State → State
  | 0, s => s
  | k + 1, s => chunkSteps writable k (chunkStep writable s)

/-- The PCM samples of `m` chunks of buffer `b` from chunk `k` on, the running state threaded from chunk to chunk
(R200, R203). -/
def decodeChunks (c : Chan) (x : Channel) (b : BufIdx) (st : FState) (k : Nat) : Nat → List Half
  | 0 => []
  | m + 1 =>
      let bytes := rawRead c x b (k * x.chunkBytes) x.chunkBytes
      filterPcm x.stride bytes x.vol x.fp st ++
        decodeChunks c x b (Config.filterNext bytes x.vol x.fp st) (k + 1) m

/-- The running state after `m` chunks of buffer `b` from chunk `k` on (R203). -/
def decodeState (c : Chan) (x : Channel) (b : BufIdx) (st : FState) (k : Nat) : Nat → FState
  | 0 => st
  | m + 1 =>
      let bytes := rawRead c x b (k * x.chunkBytes) x.chunkBytes
      decodeState c x b (Config.filterNext bytes x.vol x.fp st) (k + 1) m

/-- The bytes of `vs` delivered one by one to channel `c`'s DMA (R250). -/
def dmaSteps (c : Chan) : List Byte → State → State
  | [], s => s
  | v :: vs, s => dmaSteps c vs (dmaStep c v s)

/-- `k` completions of channel `c` serviced one after another (R251). -/
def completions (c : Chan) : Nat → State → State
  | 0, s => s
  | k + 1, s => completions c k (serviceCompletion c s)

end Sys2Proof.Machine
end

