-- ==== Sys2Proof/Certificates/Slice0/Obligations.lean ====
section
/-!
DEFINITION. The statements for the provers, each from a numbered rule of spec/.
-/

open Sys2Proof Sys2Proof.Machine

/-! ## Encoding (30_encoding.md) -/

/-- R110 to R121: decoding the word of a command gives the command back, for every command, every CH field (3 too),
every immediate and enable. -/
def Obligations.DecodeOfEncodeIsTheCommand : Prop := ∀ i : Instr, decode (encode i) = .instr i

/-- R126: a word that decodes to a command is that command's word, so every bit of it is accounted for. -/
def Obligations.EncodeOfDecodeIsTheWord : Prop :=
  ∀ (w : Word) (i : Instr), decode w = .instr i → encode i = w

/-- R122 to R124, R303: the words that decode to no command, in the check order OP, RSV, IMM16. -/
def Obligations.DecodeRefusesExactlyTheIllegalWords : Prop :=
  ∀ w : Word,
    (decode w = .illegal .reservedOp ↔ wordReserved w) ∧
    (decode w = .illegal .reservedBits ↔ ¬ wordReserved w ∧ wordRsv w ≠ 0) ∧
    (decode w = .illegal .immConstraint ↔ ¬ wordReserved w ∧ wordRsv w = 0 ∧ wordImmViolated w)

/-- R112 to R121: words the rules write out, and what they decode to. -/
def Obligations.WordsOfTheOpcodeMapDecode : Prop :=
  decode 0x00000011#32 = .instr (.init 1#2) ∧
  decode 0x00000022#32 = .instr (.deinit 2#2) ∧
  decode 0x00000013#32 = .instr (.start 1#2) ∧
  decode 0x00000024#32 = .instr (.stop 2#2) ∧
  decode 0x00010025#32 = .instr (.setrdy 2#2 true) ∧
  decode 0x00400006#32 = .instr (.setmaxv 0#2 64#16) ∧
  decode 0x00100017#32 = .instr (.setgain 1#2 16#16) ∧
  decode 0x00200018#32 = .instr (.setvol 1#2 32#16) ∧
  decode 0x00000029#32 = .instr (.read 2#2) ∧
  decode 0x0000001A#32 = .instr (.ack 1#2) ∧
  decode 0x00000000#32 = .illegal .reservedOp ∧
  decode 0x00000041#32 = .illegal .reservedBits ∧
  decode 0x00030005#32 = .illegal .immConstraint

/-! ## Steps and the acceptance of commands (60_exceptions.md) -/

/-- R302: when the next move is a host write of CMD whose word decodes to `i`, the step is `exec i` on the state with
that move taken off the list; nothing else is added. -/
def Obligations.StepRunsTheDecodedCommand : Prop :=
  ∀ (s : State) (w : Word) (i : Instr), decode w = .instr i →
    (∀ rest, s.agenda = .write 0x00 4 w :: rest → step s = exec i { s with agenda := rest }) ∧
    step (s.withFetchWord 32 w.toNat) = exec i s

/-- R320: when the next move is another agent's, the step is that agent's. -/
def Obligations.StepRunsTheAgentsMove : Prop :=
  ∀ (s : State) (e : Event) (rest : List Event), s.agenda = e :: rest → s.fault = false →
    (∀ c v, e = .dma c v → step s = .next (dmaStep c v { s with agenda := rest })) ∧
    (e = .irq → step s = .next (handlerStep { s with agenda := rest })) ∧
    (e = .chunk → step s = .next (chunkStep Config.hostWritable { s with agenda := rest }))

/-- R302: a CMD write has no step after FAULT, is dropped with LOST set and nothing else changed while a READ is in
progress, and is else accepted: LOST cleared, the word checked (R303) and performed, and only a READ lasts beyond
its acceptance. -/
def Obligations.CommandIsDroppedOrAccepted : Prop :=
  ∀ (s : State) (w : Word) (rest : List Event), s.agenda = .write 0x00 4 w :: rest →
    (s.fault = true → step s = .fault .busFault) ∧
    (s.fault = false → s.rd.busy = true → step s = .next { s with agenda := rest, lost := true }) ∧
    (s.fault = false → s.rd.busy = false →
      ∃ t, step s = .next t ∧ t.lost = false ∧
        (∀ i, decode w = .instr i → exec i { s with agenda := rest } = .next t) ∧
        (∀ e, decode w = .illegal e → t = reportOnly .illegalCommand { s with agenda := rest }) ∧
        (t.rd.busy = true → ∃ ch, decode w = .instr (.read ch)))

/-- R302: a command written while a READ is in progress is dropped, whichever it is. -/
def Obligations.EveryCommandIsDroppedWhileBusy : Prop :=
  ∀ (i : Instr) (s : State), s.fault = false → s.rd.busy = true → exec i s = .next { s with lost := true }

/-- R123, and R122 and R124 with it: an accepted word with a reserved OP, a nonzero RSV or a violated IMM16
constraint ends with ILLEGAL_COMMAND and changes nothing else. -/
def Obligations.IllegalWordReportsIllegalCommand : Prop :=
  ∀ (s : State) (w : Word) (rest : List Event), s.agenda = .write 0x00 4 w :: rest → s.accepting →
    wordReserved w ∨ wordRsv w ≠ 0 ∨ wordImmViolated w →
    step s = .next (reportOnly .illegalCommand { s with agenda := rest })

/-- R125: a command with CH = 3 ends with INVALID_CHANNEL and changes nothing else. -/
def Obligations.ChannelThreeIsInvalid : Prop :=
  ∀ (i : Instr) (s : State), s.accepting → i.ch = 3#2 → exec i s = .next (reportOnly .invalidChannel s)

/-- R150, R180 to R183, R202, R230: a command the channel's lifecycle state does not admit ends with BAD_STATE and
changes nothing else. -/
def Obligations.WrongStateReportsBadState : Prop :=
  ∀ (i : Instr) (c : Chan) (s : State), s.accepting → chanOf i.ch = some c →
    ((s.chan c).lstate = .uninit → (∀ ch, i ≠ .init ch) → (∀ ch, i ≠ .deinit ch) →
      exec i s = .next (reportOnly .badState s)) ∧
    ((s.chan c).lstate ≠ .uninit → (∃ ch, i = .init ch) → exec i s = .next (reportOnly .badState s)) ∧
    ((s.chan c).lstate = .active → (∃ ch, i = .start ch) → exec i s = .next (reportOnly .badState s))

/-- No step refuses, and a step stops in three cases only: after FAULT (R306), for a register access inside the block
that the spec gives no step (R85), and for a host access at 0x80 or above. That the last is a stop is the model's
choice (log 16): R81 says only that it is outside the block. -/
def Obligations.StepStopsOnlyWhereTheSpecSaysSo : Prop :=
  ∀ s : State,
    (∀ r, step s ≠ .refused r) ∧
    (∀ f, step s = .fault f →
      (f = .busFault ∧ s.fault = true ∧ (takeEvent s).1 ≠ .reset) ∨
      (∃ off size, ((takeEvent s).1 = .read off size ∨ ∃ v, (takeEvent s).1 = .write off size v) ∧
        ((f = .outsideBlock ∧ 0x80 ≤ off) ∨
          (f = .unadmittedAccess ∧ off < 0x80 ∧ (size ≠ 4 ∨ off % 4 ≠ 0)))))

/-! ## Lifecycle (40_lifecycle.md) -/

/-- R140, R142, R143: INIT of an UNINIT channel with a valid staged configuration, the environment granting both
buffers and the DMA resource, latches the configuration, creates two unwritten buffers, programs the front end,
sets the filter defaults and leaves the channel IDLE. That the granted answers stand in a list (log 4), and what the
front end's record holds (log 19), is the model's choice. -/
def Obligations.InitMakesTheChannelIdle : Prop :=
  ∀ (ch : BitVec 2) (c : Chan) (s : State) (rest : List Bool), s.accepting → chanOf ch = some c →
    (s.chan c).lstate = .uninit → 1 ≤ (s.stage c).rate.toNat / 1000 →
    (s.stage c).bufsz.toNat % ((s.stage c).rate.toNat / 1000) = 0 →
    s.answers = true :: true :: true :: rest →
    ∃ t, exec (.init ch) s = .next t ∧ t.err = .ok ∧ t.result = 0#32 ∧ t.lost = false ∧
      t.chan c =
        { lstate := .idle, w := 0, r := 0,
          cfg := { rate := (s.stage c).rate, bufsz := (s.stage c).bufsz,
                   dataPin := (s.stage c).pins.extractLsb' 0 8, clkPin := (s.stage c).pins.extractLsb' 8 8,
                   pio := (s.stage c).pins.extractLsb' 16 4, sm := (s.stage c).pins.extractLsb' 20 4 },
          rawSize := (s.stage c).bufsz.toNat * 8,
          clkdiv := Config.clkdivFn Config.fSys (s.stage c).rate 64,
          raw := #v[some [], some []], holdsBuf := #v[true, true], holdsDma := true,
          dmaArmed := false, dmaProg := 0, dmaPend := false, dmaIrqEn := false, capEn := false,
          readyEn := false, pendCount := 0#32, readyPend := false, ovr := false,
          fp := { fs := (s.stage c).rate, lp := Config.lpCutoff (s.stage c).rate,
                  hp := Config.hpCutoff (s.stage c).rate, nch := Config.micChannels, dec := 64,
                  maxv := 64#16, gain := 16#16 },
          vol := 64#16, frs := none } ∧
      t.frontEnd = s.frontEnd.set c (some
        { pio := (s.stage c).pins.extractLsb' 16 4, sm := (s.stage c).pins.extractLsb' 20 4,
          dataPin := (s.stage c).pins.extractLsb' 0 8, clkPin := (s.stage c).pins.extractLsb' 8 8,
          divisor := Config.clkdivFn Config.fSys (s.stage c).rate 64 }) ∧
      t.answers = rest ∧ t.draws = s.draws ∧ t.lineEn = s.lineEn ∧ t.rd = s.rd ∧
      otherChannels c s t ∧ commandFrame s t

/-- R140, R141: INIT's failures in order: a configuration that is no whole number of frames, a refused buffer 0, a
refused buffer 1, no DMA resource. Each changes nothing but ERR, RESULT and the answers it consumed. That the answers
stand in a list, from which a failed INIT takes those it used, is the model's choice (log 4). -/
def Obligations.InitFailsWithoutEffect : Prop :=
  ∀ (ch : BitVec 2) (c : Chan) (s : State) (rest : List Bool), s.accepting → chanOf ch = some c →
    (s.chan c).lstate = .uninit →
    ((s.stage c).rate.toNat / 1000 = 0 ∨
        (s.stage c).bufsz.toNat % ((s.stage c).rate.toNat / 1000) ≠ 0 →
      exec (.init ch) s = .next (reportOnly .configError s)) ∧
    (1 ≤ (s.stage c).rate.toNat / 1000 → (s.stage c).bufsz.toNat % ((s.stage c).rate.toNat / 1000) = 0 →
      (s.answers = false :: rest →
        exec (.init ch) s = .next (reportOnly .allocationError { s with answers := rest })) ∧
      (s.answers = true :: false :: rest →
        exec (.init ch) s = .next (reportOnly .allocationError { s with answers := rest })) ∧
      (s.answers = true :: true :: false :: rest →
        exec (.init ch) s = .next (reportOnly .resourceExhausted { s with answers := rest })))

/-- R141: whatever the environment answers, a failed INIT leaves the channel as it was and holding nothing, and a
successful one holds both buffers and the DMA resource. -/
def Obligations.InitHoldsAllOrNothing : Prop :=
  ∀ (ch : BitVec 2) (c : Chan) (s : State), s.accepting → chanOf ch = some c → s.chan c = Channel.reset →
    ∃ t, exec (.init ch) s = .next t ∧ otherChannels c s t ∧ commandFrame s t ∧
      ((t.err = .ok ∧ (t.chan c).lstate = .idle ∧ (t.chan c).holdsBuf = #v[true, true] ∧
          (t.chan c).holdsDma = true) ∨
        ((t.err = .configError ∨ t.err = .allocationError ∨ t.err = .resourceExhausted) ∧
          t.chan c = Channel.reset ∧ t.frontEnd = s.frontEnd))

/-- R144: DEINIT of a channel that is not UNINIT returns every field of it to its reset value and leaves the shared
line on only where it was on and another channel uses it; of an UNINIT channel it does nothing. -/
def Obligations.DeinitTearsTheChannelDown : Prop :=
  ∀ (ch : BitVec 2) (c : Chan) (s : State), s.accepting → chanOf ch = some c →
    ((s.chan c).lstate = .uninit → exec (.deinit ch) s = .next (reportOnly .ok s)) ∧
    ((s.chan c).lstate ≠ .uninit →
      ∃ t, exec (.deinit ch) s = .next t ∧ t.err = .ok ∧ t.result = 0#32 ∧ t.lost = false ∧
        t.chan c = Channel.reset ∧
        (t.lineEn = true ↔ s.lineEn = true ∧ ∃ x, x ≠ c ∧ (s.chan x).dmaIrqEn = true) ∧
        t.rd = s.rd ∧ noDraw s t ∧ otherChannels c s t ∧ commandFrame s t)

/-- R146: START of an IDLE channel initialises the filter, resets the indices, the counter and the flags, enables
the channel's interrupt and the line, arms the DMA (an empty transfer is pending at once, R147) and enables capture;
of any other channel it is BAD_STATE. -/
def Obligations.StartBeginsCapture : Prop :=
  ∀ (ch : BitVec 2) (c : Chan) (s : State), s.accepting → chanOf ch = some c →
    ((s.chan c).lstate ≠ .idle → exec (.start ch) s = .next (reportOnly .badState s)) ∧
    ((s.chan c).lstate = .idle →
      ∃ t, exec (.start ch) s = .next t ∧ t.err = .ok ∧ t.result = 0#32 ∧ t.lost = false ∧ t.lineEn = true ∧
        t.chan c =
          { s.chan c with
            lstate := .active, frs := some (Config.filterInit (s.chan c).fp), w := 0, r := 0,
            pendCount := 0#32, readyPend := false, ovr := false, dmaIrqEn := true, capEn := true, dmaProg := 0,
            dmaArmed := decide ((s.chan c).rawSize ≠ 0), dmaPend := decide ((s.chan c).rawSize = 0) } ∧
        t.rd = s.rd ∧ t.frontEnd = s.frontEnd ∧ noDraw s t ∧ otherChannels c s t ∧ commandFrame s t)

/-- R148: STOP, symmetric: an ACTIVE channel is disabled, its transfer and its pending completion dropped, and it is
IDLE; the line stays on only where it was on and another channel uses it. STOP of an IDLE channel does nothing, of
an UNINIT one is BAD_STATE. That STOP leaves the front end's record as loaded is the model's choice (log 19). -/
def Obligations.StopHaltsTheChannel : Prop :=
  ∀ (ch : BitVec 2) (c : Chan) (s : State), s.accepting → chanOf ch = some c →
    ((s.chan c).lstate = .uninit → exec (.stop ch) s = .next (reportOnly .badState s)) ∧
    ((s.chan c).lstate = .idle → exec (.stop ch) s = .next (reportOnly .ok s)) ∧
    ((s.chan c).lstate = .active →
      ∃ t, exec (.stop ch) s = .next t ∧ t.err = .ok ∧ t.result = 0#32 ∧ t.lost = false ∧
        t.chan c =
          { s.chan c with
            lstate := .idle, capEn := false, dmaArmed := false, dmaPend := false, dmaIrqEn := false } ∧
        (t.lineEn = true ↔ s.lineEn = true ∧ ∃ x, x ≠ c ∧ (s.chan x).dmaIrqEn = true) ∧
        t.rd = s.rd ∧ t.frontEnd = s.frontEnd ∧ noDraw s t ∧ otherChannels c s t ∧ commandFrame s t)

/-- R149: what STOP does with STOP_ASYMMETRIC = true, which is not the spec's value: channel 0 is halted with the
line switched off for every channel, any other channel only stops capturing. -/
def Obligations.AsymmetricStopHaltsChannelZeroOnly : Prop :=
  ∀ (c : Chan) (s : State),
    ((s.chan c).lstate = .uninit → stopChannel true c s = raise .badState s) ∧
    ((s.chan c).lstate = .idle → stopChannel true c s = finish s) ∧
    ((s.chan c).lstate = .active →
      (stopChannel true c s).err = .ok ∧ (stopChannel true c s).result = 0#32 ∧
      otherChannels c s (stopChannel true c s) ∧ commandFrame s (stopChannel true c s) ∧
      (c = 0 → (stopChannel true c s).lineEn = false ∧ (stopChannel true c s).chan c =
        { s.chan c with lstate := .idle, capEn := false, dmaArmed := false, dmaPend := false }) ∧
      (c ≠ 0 → (stopChannel true c s).lineEn = s.lineEn ∧
        (stopChannel true c s).chan c = { s.chan c with lstate := .idle, capEn := false }))

/-- R150: the lifecycle table: what each command makes of `lstate`, and the code it ends with; the codes of the other
commands are those of R180 to R183, R202 and R230. -/
def Obligations.LifecycleTransitions : Prop :=
  ∀ (i : Instr) (c : Chan) (s : State), s.accepting → chanOf i.ch = some c →
    ∃ t, exec i s = .next t ∧
      match i with
      | .init _ =>
          ((s.chan c).lstate = .uninit →
            ((t.chan c).lstate = .idle ∧ t.err = .ok) ∨
            ((t.chan c).lstate = .uninit ∧
              (t.err = .configError ∨ t.err = .allocationError ∨ t.err = .resourceExhausted))) ∧
          ((s.chan c).lstate ≠ .uninit → t.chan c = s.chan c ∧ t.err = .badState)
      | .deinit _ =>
          (t.chan c).lstate = .uninit ∧ t.err = .ok ∧
            ((s.chan c).lstate = .uninit → t.chan c = s.chan c)
      | .start _ =>
          ((s.chan c).lstate = .idle → (t.chan c).lstate = .active ∧ t.err = .ok) ∧
          ((s.chan c).lstate ≠ .idle → t.chan c = s.chan c ∧ t.err = .badState)
      | .stop _ =>
          ((s.chan c).lstate = .uninit → t.chan c = s.chan c ∧ t.err = .badState) ∧
          ((s.chan c).lstate = .idle → t.chan c = s.chan c ∧ t.err = .ok) ∧
          ((s.chan c).lstate = .active → (t.chan c).lstate = .idle ∧ t.err = .ok)
      | .setrdy _ _ | .setmaxv _ _ | .setgain _ _ | .setvol _ _ | .ack _ =>
          (t.chan c).lstate = (s.chan c).lstate ∧
            t.err = (if (s.chan c).lstate = .uninit then .badState else .ok)
      | .read _ =>
          (t.chan c).lstate = (s.chan c).lstate ∧
            t.err = (if (s.chan c).lstate = .uninit then .badState
              else if s.arg0.toNat % 2 = 1 then .misaligned
              else if 2 ^ 32 < s.arg0.toNat + 2 * sampleCount (s.chan c).cfg s.arg1 then .addressRange else .ok)

/-! ## Ready handler and filter parameters (41_filter_config.md) -/

/-- R180: SETRDY writes the channel's ready enable and nothing else of it. -/
def Obligations.SetrdySetsTheReadyEnable : Prop :=
  ∀ (ch : BitVec 2) (en : Bool) (c : Chan) (s : State), s.accepting → chanOf ch = some c →
    ((s.chan c).lstate = .uninit → exec (.setrdy ch en) s = .next (reportOnly .badState s)) ∧
    ((s.chan c).lstate ≠ .uninit →
      ∃ t, exec (.setrdy ch en) s = .next t ∧ t.err = .ok ∧ t.result = 0#32 ∧ t.lost = false ∧
        t.chan c = { s.chan c with readyEn := en } ∧
        t.lineEn = s.lineEn ∧ t.rd = s.rd ∧ t.frontEnd = s.frontEnd ∧ noDraw s t ∧
        otherChannels c s t ∧ commandFrame s t)

/-- R181, R182, R183: SETMAXV, SETGAIN and SETVOL write their one value, any of the 65536, and nothing else of the
channel. -/
def Obligations.FilterSettersSetTheirValue : Prop :=
  ∀ (ch : BitVec 2) (imm : Half) (c : Chan) (s : State), s.accepting → chanOf ch = some c →
    ((s.chan c).lstate = .uninit →
      exec (.setmaxv ch imm) s = .next (reportOnly .badState s) ∧
      exec (.setgain ch imm) s = .next (reportOnly .badState s) ∧
      exec (.setvol ch imm) s = .next (reportOnly .badState s)) ∧
    ((s.chan c).lstate ≠ .uninit →
      ∃ tm tg tv,
        exec (.setmaxv ch imm) s = .next tm ∧
        tm.chan c = { s.chan c with fp := { (s.chan c).fp with maxv := imm } } ∧
        exec (.setgain ch imm) s = .next tg ∧
        tg.chan c = { s.chan c with fp := { (s.chan c).fp with gain := imm } } ∧
        exec (.setvol ch imm) s = .next tv ∧
        tv.chan c = { s.chan c with vol := imm } ∧
        ∀ t, t = tm ∨ t = tg ∨ t = tv →
          t.err = .ok ∧ t.result = 0#32 ∧ t.lost = false ∧ t.lineEn = s.lineEn ∧ t.rd = s.rd ∧
            t.frontEnd = s.frontEnd ∧ noDraw s t ∧ otherChannels c s t ∧ commandFrame s t)

/-! ## The read path (42_read_decode.md) -/

/-- R201: the sample count is the greatest multiple of the stride that neither the request nor the buffer is
smaller than. -/
def Obligations.SampleCountIsTheGreatestMultiple : Prop :=
  ∀ (cfg : ChanConfig) (max : Word), cfg.valid = true →
    sampleCount cfg max % strideOf cfg.rate = 0 ∧ sampleCount cfg max ≤ max.toNat ∧
    sampleCount cfg max ≤ cfg.bufsz.toNat ∧
    ∀ m, m % strideOf cfg.rate = 0 → m ≤ max.toNat → m ≤ cfg.bufsz.toNat → m ≤ sampleCount cfg max

/-- R202: READ: BAD_STATE, MISALIGNED, ADDRESS_RANGE and the empty poll, in that order, change nothing but what they
report; else the published buffer is consumed, and with samples to do the read engine begins with the latched
operands. -/
def Obligations.ReadConsumesThePublishedBuffer : Prop :=
  ∀ (ch : BitVec 2) (c : Chan) (s : State) (n : Nat), s.accepting → chanOf ch = some c →
    n = min (s.arg1.toNat / ((s.chan c).cfg.rate.toNat / 1000) * ((s.chan c).cfg.rate.toNat / 1000))
      (s.chan c).cfg.bufsz.toNat →
    ((s.chan c).lstate = .uninit → exec (.read ch) s = .next (reportOnly .badState s)) ∧
    ((s.chan c).lstate ≠ .uninit → s.arg0.toNat % 2 = 1 →
      exec (.read ch) s = .next (reportOnly .misaligned s)) ∧
    ((s.chan c).lstate ≠ .uninit → s.arg0.toNat % 2 = 0 → 2 ^ 32 < s.arg0.toNat + 2 * n →
      exec (.read ch) s = .next (reportOnly .addressRange s)) ∧
    ((s.chan c).lstate ≠ .uninit → s.arg0.toNat % 2 = 0 → s.arg0.toNat + 2 * n ≤ 2 ^ 32 →
      ((s.chan c).r = (s.chan c).w → exec (.read ch) s = .next (reportOnly .ok s)) ∧
      ((s.chan c).r ≠ (s.chan c).w →
        ∃ t, exec (.read ch) s = .next t ∧ t.err = .ok ∧ t.result = 0#32 ∧ t.lost = false ∧
          t.chan c = { s.chan c with r := (s.chan c).r + 1 } ∧
          t.rd = (if n = 0 then s.rd
            else { busy := true, ch := c, buf := (s.chan c).r, addr := s.arg0, n := n, k := 0 }) ∧
          t.lineEn = s.lineEn ∧ t.frontEnd = s.frontEnd ∧ noDraw s t ∧ otherChannels c s t ∧ commandFrame s t))

/-- R203: the read engine's chunk step, for any HostWritable: it writes the chunk's `stride` samples from the chunk's
base on, little-endian, and nothing else of host memory, hands the filter state on, counts the chunk, and after the
last one clears BUSY with RESULT = n and ERR = OK. The bytes it writes are no longer any value to the host (log 10).
That a chunk move of an engine that is not busy changes nothing is the model's choice (log 3): R203 gives it no step. -/
def Obligations.ChunkWritesItsSamples : Prop :=
  ∀ (writable : Nat → Nat → Bool) (s t : State) (x : Channel) (base : Nat) (bytes : List Byte) (st : FState),
    t = chunkStep writable s → x = s.chan s.rd.ch →
    base = s.rd.addr.toNat + 2 * s.rd.k * (x.cfg.rate.toNat / 1000) →
    bytes = rawRead s.rd.ch x s.rd.buf (s.rd.k * (x.cfg.rate.toNat / 1000 * 8)) (x.cfg.rate.toNat / 1000 * 8) →
    x.frs = some st →
    (s.rd.busy = false → t = s) ∧
    (s.rd.busy = true → (∀ j, j < x.cfg.rate.toNat / 1000 → admits writable (base + 2 * j) = true) →
      (∀ j, j < x.cfg.rate.toNat / 1000 →
        t.mem.read (base + 2 * j) = some ((Config.filterSample bytes x.vol x.fp st j).extractLsb' 0 8) ∧
        t.mem.read (base + 2 * j + 1) = some ((Config.filterSample bytes x.vol x.fp st j).extractLsb' 8 8)) ∧
      (∀ a, a < base ∨ base + 2 * (x.cfg.rate.toNat / 1000) ≤ a → t.mem.read a = s.mem.read a) ∧
      t.chan s.rd.ch = { x with frs := some (Config.filterNext bytes x.vol x.fp st) } ∧
      otherChannels s.rd.ch s t ∧
      ((s.rd.k + 1) * (x.cfg.rate.toNat / 1000) = s.rd.n →
        t.rd = { s.rd with k := s.rd.k + 1, busy := false } ∧ t.result = BitVec.ofNat 32 s.rd.n ∧ t.err = .ok) ∧
      ((s.rd.k + 1) * (x.cfg.rate.toNat / 1000) ≠ s.rd.n →
        t.rd = { s.rd with k := s.rd.k + 1 } ∧ t.result = s.result ∧ t.err = s.err) ∧
      t.lost = s.lost ∧ t.fault = s.fault ∧ t.arg0 = s.arg0 ∧ t.arg1 = s.arg1 ∧ t.staging = s.staging ∧
      t.lineEn = s.lineEn ∧ t.frontEnd = s.frontEnd ∧ t.agenda = s.agenda ∧ noDraw s t ∧ t.hostData = s.hostData ∧
      ∀ a, isOpen t.openRanges a = true ↔
        isOpen s.openRanges a = true ∧ ¬ (base ≤ a ∧ a < base + 2 * (x.cfg.rate.toNat / 1000)))

/-- R91: a sample write that host memory refuses refuses the whole chunk: nothing is written, and FAULT and
BUS_FAULT are set. -/
def Obligations.RefusedChunkWritesNothing : Prop :=
  ∀ (writable : Nat → Nat → Bool) (s : State) (j : Nat), s.rd.busy = true →
    j < (s.chan s.rd.ch).cfg.rate.toNat / 1000 →
    writable (s.rd.addr.toNat + 2 * s.rd.k * ((s.chan s.rd.ch).cfg.rate.toNat / 1000) + 2 * j) 2 = false →
    chunkStep writable s = { s with fault := true, err := .busFault }

/-- R203, R204, R206: a READ of `m` chunks that nothing interrupts: after `j` chunk steps exactly the first
`j * stride` samples are written, sample `i` little-endian at `ARG0 + 2 * i`, and no other byte, and the running state
is handed on from chunk to chunk; after `m` the engine is done with RESULT = n and ERR = OK, and not before. -/
def Obligations.ReadRunsToCompletion : Prop :=
  ∀ (writable : Nat → Nat → Bool) (s : State) (x : Channel) (st : FState) (m : Nat),
    s.rd.busy = true → s.rd.k = 0 → x = s.chan s.rd.ch → x.frs = some st → 0 < x.stride →
    s.rd.n = m * x.stride → 0 < m →
    (∀ i, i < s.rd.n → admits writable (s.rd.addr.toNat + 2 * i) = true) →
    ∀ j, j ≤ m →
      ((chunkSteps writable j s).rd.busy = true ↔ j < m) ∧
      (∀ (i : Nat) (h : i < (decodeChunks s.rd.ch x s.rd.buf st 0 j).length),
        (chunkSteps writable j s).mem.read (s.rd.addr.toNat + 2 * i) =
          some ((decodeChunks s.rd.ch x s.rd.buf st 0 j)[i].extractLsb' 0 8) ∧
        (chunkSteps writable j s).mem.read (s.rd.addr.toNat + 2 * i + 1) =
          some ((decodeChunks s.rd.ch x s.rd.buf st 0 j)[i].extractLsb' 8 8)) ∧
      (decodeChunks s.rd.ch x s.rd.buf st 0 j).length = j * x.stride ∧
      (∀ a, a < s.rd.addr.toNat ∨ s.rd.addr.toNat + 2 * (j * x.stride) ≤ a →
        (chunkSteps writable j s).mem.read a = s.mem.read a) ∧
      (chunkSteps writable j s).chan s.rd.ch =
        { x with frs := some (decodeState s.rd.ch x s.rd.buf st 0 j) } ∧
      otherChannels s.rd.ch s (chunkSteps writable j s) ∧
      (j = m → (chunkSteps writable j s).result = BitVec.ofNat 32 s.rd.n ∧ (chunkSteps writable j s).err = .ok)

/-- R209: where two channels have the same parameters, volume and running state, and `m` chunks of two buffers hold the
same written raw bytes, those chunks decode to the same PCM and leave the same running state, whatever else differs
between the machines; for the next chunk of the read engine, and for any number of them. -/
def Obligations.EqualInputsDecodeEqually : Prop :=
  ∀ (s t : State) (x y : Channel) (st : FState) (m : Nat), x = s.chan s.rd.ch → y = t.chan t.rd.ch →
    x.stride = y.stride → x.fp = y.fp → x.vol = y.vol → x.frs = some st → y.frs = some st →
    (∀ i, i < m * x.chunkBytes →
      (x.rawByte? s.rd.buf (s.rd.k * x.chunkBytes + i)).isSome = true ∧
      x.rawByte? s.rd.buf (s.rd.k * x.chunkBytes + i) = y.rawByte? t.rd.buf (t.rd.k * y.chunkBytes + i)) →
    (0 < m → chunkPcm s = chunkPcm t ∧ chunkFilterState s = chunkFilterState t) ∧
    decodeChunks s.rd.ch x s.rd.buf st s.rd.k m = decodeChunks t.rd.ch y t.rd.buf st t.rd.k m ∧
    decodeState s.rd.ch x s.rd.buf st s.rd.k m = decodeState t.rd.ch y t.rd.buf st t.rd.k m

/-! ## Notification (43_notification.md) -/

/-- R230: ACK moves the samples-ready counter into RESULT and clears it, in one step. -/
def Obligations.AckTranscribesAndClears : Prop :=
  ∀ (ch : BitVec 2) (c : Chan) (s : State), s.accepting → chanOf ch = some c →
    ((s.chan c).lstate = .uninit → exec (.ack ch) s = .next (reportOnly .badState s)) ∧
    ((s.chan c).lstate ≠ .uninit →
      ∃ t, exec (.ack ch) s = .next t ∧ t.err = .ok ∧ t.result = (s.chan c).pendCount ∧ t.lost = false ∧
        t.chan c = { s.chan c with pendCount := 0#32 } ∧
        t.lineEn = s.lineEn ∧ t.rd = s.rd ∧ t.frontEnd = s.frontEnd ∧ noDraw s t ∧
        otherChannels c s t ∧ commandFrame s t)

/-- R231: a write of `v` to IRQ_STAT, BUSY or not, clears each READY_PEND[c] with `v[c] = 1` and each OVR[c] with
`v[8 + c] = 1`, and changes nothing else. -/
def Obligations.IrqStatIsWriteOneToClear : Prop :=
  ∀ (s : State) (v : Word) (rest : List Event), s.agenda = .write 0x14 4 v :: rest → s.fault = false →
    ∃ t, step s = .next t ∧ onlyChannels { s with agenda := rest } t ∧
      ∀ c : Chan, t.chan c =
        { s.chan c with
          readyPend := (s.chan c).readyPend && !v.getLsbD c.val
          ovr := (s.chan c).ovr && !v.getLsbD (8 + c.val) }

/-- R232, R311: READY_IRQ is the OR of the READY_PEND bits: a serviced completion raises it exactly where the channel's
ready handler is set, and a clear of IRQ_STAT lowers it exactly where it leaves no bit. OVR does not raise it. -/
def Obligations.ReadyIrqFollowsReadyPend : Prop :=
  ∀ (c : Chan) (s : State) (v : Word),
    (readyIrq s = true ↔ ∃ x, (s.chan x).readyPend = true) ∧
    readyIrq (serviceCompletion c s) = (readyIrq s || (s.chan c).readyEn) ∧
    (readyIrq (clearIrqStat v s) = true ↔ ∃ x : Chan, (s.chan x).readyPend = true ∧ v.getLsbD x.val = false)

/-! ## Capture and completion (45_capture_completion.md) -/

/-- R250: the DMA byte step: byte `dma_prog` of the target buffer takes the byte, every other raw byte stays, the
progress grows by one, and the last byte ends the transfer; it never writes at `raw_size` or beyond. That a DMA move
that is not enabled changes nothing is the model's choice (log 3): R250 gives it no step. -/
def Obligations.DmaStoresOneByte : Prop :=
  ∀ (c : Chan) (v : Byte) (s t : State) (x y : Channel), t = dmaStep c v s → x = s.chan c → y = t.chan c →
    ChannelInv x →
    (x.dmaArmed = false ∨ x.capEn = false → t = s) ∧
    (x.dmaArmed = true → x.capEn = true →
      x.dmaProg < x.rawSize ∧
      (∀ b i, y.rawByte? b i = if b = x.w ∧ i = x.dmaProg then some v else x.rawByte? b i) ∧
      y.dmaProg = x.dmaProg + 1 ∧
      y.dmaArmed = decide (x.dmaProg + 1 ≠ x.rawSize) ∧ y.dmaPend = decide (x.dmaProg + 1 = x.rawSize) ∧
      { y with raw := x.raw, dmaProg := x.dmaProg, dmaArmed := x.dmaArmed, dmaPend := x.dmaPend } = x ∧
      otherChannels c s t ∧ onlyChannels s t)

/-- R250: the bytes of a whole transfer, delivered one by one, fill the target buffer in order, and the transfer
ends with the last of them and not before. -/
def Obligations.TransferFillsTheBuffer : Prop :=
  ∀ (c : Chan) (vs : List Byte) (s : State) (x : Channel), x = s.chan c → ChannelInv x → x.dmaArmed = true →
    x.capEn = true → x.dmaProg = 0 → vs.length ≤ x.rawSize →
    (∀ (i : Nat) (h : i < vs.length), ((dmaSteps c vs s).chan c).rawByte? x.w i = some vs[i]) ∧
    ((dmaSteps c vs s).chan c).dmaProg = vs.length ∧
    (((dmaSteps c vs s).chan c).dmaPend = true ↔ vs.length = x.rawSize) ∧
    (((dmaSteps c vs s).chan c).dmaArmed = true ↔ vs.length < x.rawSize) ∧
    otherChannels c s (dmaSteps c vs s) ∧ onlyChannels s (dmaSteps c vs s)

/-- R251: the completion handler: the lowest channel whose completion is pending and enabled is serviced: pending
cleared, the finished buffer published, the write index advanced, the DMA re-armed (R147), OVR set where the buffer
retired was unconsumed or the new target is being decoded (R253), the counter advanced mod 2^32 (R252), READY_PEND
set where the handler is registered. That a handler move changes nothing where none is due or the line is off is the
model's choice (log 3): R251 gives it no step. -/
def Obligations.HandlerServicesTheLowestChannel : Prop :=
  ∀ (s t : State), t = handlerStep s →
    (s.lineEn = false ∨ (∀ d, ¬ ((s.chan d).dmaPend = true ∧ (s.chan d).dmaIrqEn = true)) → t = s) ∧
    (∀ (c : Chan) (x : Channel), x = s.chan c → s.lineEn = true → x.dmaPend = true → x.dmaIrqEn = true →
      (∀ d, d < c → ¬ ((s.chan d).dmaPend = true ∧ (s.chan d).dmaIrqEn = true)) →
      t.chan c =
        { x with
          dmaPend := decide (x.rawSize = 0), r := x.w, w := x.w + 1, dmaProg := 0,
          dmaArmed := decide (x.rawSize ≠ 0),
          ovr := x.ovr || decide (x.r ≠ x.w) ||
            (s.rd.busy && decide (s.rd.ch = c) && decide (s.rd.buf = x.w + 1)),
          pendCount := x.pendCount + 1#32, readyPend := x.readyPend || x.readyEn } ∧
      otherChannels c s t ∧ onlyChannels s t)

/-- R254: with two completions due, the lower channel is serviced first and the other stays due for the next handler
step. -/
def Obligations.SimultaneousCompletionsAreAscending : Prop :=
  ∀ (s : State) (c d : Chan), s.lineEn = true → c < d →
    (s.chan c).completionDue = true → (s.chan d).completionDue = true → (s.chan c).rawSize ≠ 0 →
    (∀ e, e < d → e ≠ c → (s.chan e).completionDue = false) →
    ((handlerStep s).chan d).completionDue = true ∧
    handlerStep (handlerStep s) = serviceCompletion d (serviceCompletion c s)

/-- R256: from START, after `k` completions of the channel the write index is `k mod 2`, and the read index is what
the write index was before the last of them. -/
def Obligations.WriteIndexAlternatesFromZero : Prop :=
  ∀ (ch : BitVec 2) (c : Chan) (s : State), s.accepting → chanOf ch = some c → (s.chan c).lstate = .idle →
    ∃ t, exec (.start ch) s = .next t ∧
      ∀ k, ((completions c k t).chan c).w.val = k % 2 ∧
        ((completions c (k + 1) t).chan c).r.val = k % 2 ∧
        ((completions c k t).chan c).pendCount = BitVec.ofNat 32 k

/-- R234, R253: two completions with no READ between them set OVR, whatever the state before. -/
def Obligations.TwoCompletionsWithoutReadOverrun : Prop :=
  ∀ (c : Chan) (s : State),
    ((completions c 2 s).chan c).ovr = true ∧
    ((completions c 2 s).chan c).pendCount = (s.chan c).pendCount + 2#32 ∧
    ((completions c 1 s).chan c).r ≠ ((completions c 1 s).chan c).w

/-- R259: a channel with an empty buffer has a completion pending right after START and again after every handler
step that services it. -/
def Obligations.EmptyBufferCompletesAtOnce : Prop :=
  ∀ (ch : BitVec 2) (c : Chan) (s : State), chanOf ch = some c → (s.chan c).rawSize = 0 →
    (s.accepting → (s.chan c).lstate = .idle →
      ∃ t, exec (.start ch) s = .next t ∧ (t.chan c).dmaPend = true ∧ (t.chan c).dmaArmed = false ∧
        (t.chan c).completionDue = true) ∧
    ((serviceCompletion c s).chan c).dmaPend = true ∧ ((serviceCompletion c s).chan c).dmaArmed = false

/-! ## Registers (10_state.md, 20_memory.md) -/

/-- R59: every piece of the block's state right after reset, and after a reset asserted in any state, which touches
neither host memory nor the front end. -/
def Obligations.ResetLeavesTheStatedValues : Prop :=
  State.reset.atResetValues ∧
  ∀ (s : State) (rest : List Event), s.agenda = .reset :: rest →
    ∃ t, step s = .next t ∧ t.atResetValues ∧ t.mem = s.mem ∧ t.frontEnd = s.frontEnd

/-- R340, R306: reset has a step in every state, the faulted ones too, and gives every piece of the block its reset
value; host memory is not written, and the output range of a READ it abandons is any value to the host. That the range
is kept in `openRanges` is the model's (log 10), that the front end stays as loaded is log 19, and that the model's own
fields stay is log 17. -/
def Obligations.ResetRestoresTheBlock : Prop :=
  ∀ (s : State) (rest : List Event), s.agenda = .reset :: rest →
    step s = .next { State.reset with
      mem := s.mem
      openRanges :=
        if s.rd.busy then { lo := s.rd.addr.toNat, hi := s.rd.addr.toNat + 2 * s.rd.n } :: s.openRanges
        else s.openRanges
      frontEnd := s.frontEnd, agenda := rest, answers := s.answers, draws := s.draws,
      hostData := s.hostData }

/-- R32, R81, R87: the register map: the offset of each register, at which it is reached and at no other; each
word-aligned offset of the 128 bytes reaches one; byte `j` of a register is at `REG_BASE + offset + j` and holds bits
`8j+7 : 8j`. -/
def Obligations.RegisterMapIsOneToOne : Prop :=
  (Reg.cmd.offset = 0x00 ∧ Reg.status.offset = 0x04 ∧ Reg.result.offset = 0x08 ∧ Reg.arg0.offset = 0x0C ∧
    Reg.arg1.offset = 0x10 ∧ Reg.irqStat.offset = 0x14 ∧ Reg.reserved0.offset = 0x18 ∧ Reg.reserved1.offset = 0x1C ∧
    ∀ c : Chan,
      (Reg.cfgRate c).offset = 0x20 + 0x20 * c.val ∧ (Reg.cfgBufsz c).offset = 0x24 + 0x20 * c.val ∧
      (Reg.cfgPins c).offset = 0x28 + 0x20 * c.val ∧ (Reg.chStat c).offset = 0x2C + 0x20 * c.val ∧
      (Reg.pendCount c).offset = 0x30 + 0x20 * c.val ∧ (Reg.filtMaxv c).offset = 0x34 + 0x20 * c.val ∧
      (Reg.filtGain c).offset = 0x38 + 0x20 * c.val ∧ (Reg.filtVol c).offset = 0x3C + 0x20 * c.val) ∧
  (∀ r : Reg, regAt r.offset 4 = .ok r) ∧
  (∀ (off : Nat) (r : Reg), regAt off 4 = .ok r → off = r.offset) ∧
  (∀ off : Nat, off < 0x80 → off % 4 = 0 → ∃ r, regAt off 4 = .ok r) ∧
  (∀ (s : State) (r : Reg) (j : Nat), j < 4 →
    busOffset (r.byteAddress j) = r.offset + j ∧
    (regByte s r j).toNat = (readReg s r).toNat / 2 ^ (8 * j) % 256)

/-- R85: a register access that is not a 32-bit access at a word-aligned offset has no step. -/
def Obligations.UnalignedOrNarrowAccessIsStuck : Prop :=
  ∀ (s : State) (off size : Nat) (v : Word) (rest : List Event), s.fault = false → off < 0x80 →
    size ≠ 4 ∨ off % 4 ≠ 0 →
    (s.agenda = .read off size :: rest ∨ s.agenda = .write off size v :: rest) →
    step s = .fault .unadmittedAccess

/-- R86: a register read returns the register's value and changes nothing of the block. -/
def Obligations.RegisterReadsHaveNoSideEffect : Prop :=
  ∀ (s : State) (r : Reg) (rest : List Event), s.fault = false → s.agenda = .read r.offset 4 :: rest →
    step s = .next { s with agenda := rest, hostData := readReg s r }

/-- R36, R38, R39, R43, R86: a write to ARG0, ARG1, CFG_RATE, CFG_BUFSZ or CFG_PINS is what a read of it then
returns (bits 31:24 of CFG_PINS read 0), and changes no other register; a write to a read-only register or a reserved
offset changes nothing. BUSY or not. -/
def Obligations.RegisterWritesStoreOrAreIgnored : Prop :=
  ∀ (s : State) (r : Reg) (v : Word) (rest : List Event), s.fault = false → r ≠ .cmd → r ≠ .irqStat →
    s.agenda = .write r.offset 4 v :: rest →
    ∃ t, step s = .next t ∧
      (r = .arg0 ∨ r = .arg1 ∨ (∃ c, r = .cfgRate c ∨ r = .cfgBufsz c) → readReg t r = v) ∧
      ((∃ c, r = .cfgPins c) → readReg t r = v &&& 0x00FFFFFF#32) ∧
      (∀ r', r' ≠ r → readReg t r' = readReg s r') ∧
      (∀ c, t.chan c = s.chan c) ∧ t.rd = s.rd ∧ t.mem = s.mem ∧
      (r = .status ∨ r = .result ∨ r = .reserved0 ∨ r = .reserved1 ∨
          (∃ c, r = .chStat c ∨ r = .pendCount c ∨ r = .filtMaxv c ∨ r = .filtGain c ∨ r = .filtVol c) →
        t = { s with agenda := rest })

/-- R33 to R43, R300: what every register reads as: the fields of STATUS, IRQ_STAT and CH_STAT at their bits and 0 in
every other bit, the numbers of the error codes and lifecycle states, the other registers' values, and 0 for CMD and
the reserved offsets. -/
def Obligations.StatusWordsHoldTheirFields : Prop :=
  ∀ (s : State) (c : Chan),
    (readReg s .status).toNat =
      s.rd.busy.toNat + 2 * s.lost.toNat + 4 * s.fault.toNat + 256 * s.err.code.toNat ∧
    (readReg s .irqStat).toNat =
      (s.chan 0).readyPend.toNat + 2 * (s.chan 1).readyPend.toNat + 4 * (s.chan 2).readyPend.toNat +
      256 * (s.chan 0).ovr.toNat + 512 * (s.chan 1).ovr.toNat + 1024 * (s.chan 2).ovr.toNat ∧
    (readReg s (.chStat c)).toNat =
      (s.chan c).lstate.code.toNat + 4 * (s.chan c).w.val + 8 * (s.chan c).r.val +
      16 * (s.chan c).dmaPend.toNat + 32 * (s.chan c).dmaArmed.toNat + 64 * (s.chan c).readyEn.toNat +
      128 * (s.chan c).capEn.toNat + 256 * (s.chan c).dmaIrqEn.toNat + 512 * s.lineEn.toNat ∧
    (ErrCode.ok.code = 0#8 ∧ ErrCode.configError.code = 1#8 ∧ ErrCode.allocationError.code = 2#8 ∧
      ErrCode.resourceExhausted.code = 3#8 ∧ ErrCode.invalidChannel.code = 4#8 ∧ ErrCode.illegalCommand.code = 5#8 ∧
      ErrCode.badState.code = 6#8 ∧ ErrCode.misaligned.code = 7#8 ∧ ErrCode.addressRange.code = 8#8 ∧
      ErrCode.busFault.code = 9#8) ∧
    (LState.uninit.code = 0#2 ∧ LState.idle.code = 1#2 ∧ LState.active.code = 2#2) ∧
    (readReg s .result = s.result ∧ readReg s .arg0 = s.arg0 ∧ readReg s .arg1 = s.arg1 ∧
      readReg s (.cfgRate c) = (s.stage c).rate ∧ readReg s (.cfgBufsz c) = (s.stage c).bufsz ∧
      (readReg s (.cfgPins c)).toNat = (s.stage c).pins.toNat ∧ readReg s (.pendCount c) = (s.chan c).pendCount ∧
      (readReg s (.filtMaxv c)).toNat = (s.chan c).fp.maxv.toNat ∧
      (readReg s (.filtGain c)).toNat = (s.chan c).fp.gain.toNat ∧
      (readReg s (.filtVol c)).toNat = (s.chan c).vol.toNat) ∧
    (readReg s .cmd = 0#32 ∧ readReg s .reserved0 = 0#32 ∧ readReg s .reserved1 = 0#32)

/-- R95, R96, R208, R340: what the host loads from its memory: any value inside the output range of a READ in progress,
and inside what is left of the range of an abandoned one, and elsewhere the byte last written; nothing of the block
changes. The byte is whatever Config says, for every one it could say. The host's loads are log 9, that an
abandoned range ends where it is written again is log 10, and that a load sees memory itself, the host having done what
R100 asks where it caches memory, is the model's choice (log 23). -/
def Obligations.HostLoadSeesTheLastWrite : Prop :=
  ∀ (s : State) (a : Addr) (rest : List Event), s.fault = false → s.agenda = .memLoad a :: rest →
    ∃ t, step s = .next t ∧
      { t with hostData := s.hostData, draws := s.draws } = { s with agenda := rest } ∧
      ((s.rd.busy = true ∧ s.rd.addr.toNat ≤ a.toNat ∧ a.toNat < s.rd.addr.toNat + 2 * s.rd.n) ∨
          isOpen s.openRanges a.toNat = true →
        t.hostData = 0#24 ++ Config.outputByte s.draws ∧ t.draws = s.draws + 1) ∧
      (¬ (s.rd.busy = true ∧ s.rd.addr.toNat ≤ a.toNat ∧ a.toNat < s.rd.addr.toNat + 2 * s.rd.n) →
        isOpen s.openRanges a.toNat = false →
        t.draws = s.draws ∧ ∀ b, s.mem.read a.toNat = some b → t.hostData = 0#24 ++ b)

/-! ## Rules of the whole machine -/

/-- R306: once FAULT is 1 no agent but reset has a step. -/
def Obligations.FaultStopsEveryAgent : Prop :=
  ∀ (s : State) (e : Event) (rest : List Event), s.fault = true → s.agenda = e :: rest → e ≠ .reset →
    step s = .fault .busFault

/-- R321: a command touches no channel but its own: not its state, its flags or its raw bytes, not its staging
registers, and of its CH_STAT at most LINE_EN (bit 9), which is the line all channels share (R40). -/
def Obligations.CommandsTouchOneChannel : Prop :=
  ∀ (i : Instr) (s t : State) (x : Chan), exec i s = .next t → chanOf i.ch ≠ some x →
    t.chan x = s.chan x ∧ t.stage x = s.stage x ∧
    ∀ b, b ≠ 9 → (readReg t (.chStat x)).getLsbD b = (readReg s (.chStat x)).getLsbD b

/-- R83: no command, no capture, no completion and no register access changes a byte of host memory: of the block only
a READ chunk does, inside its output range. That the host's own store is a move, and that nothing else writes host
memory, is the model's choice (log 9): R83 speaks of the block. -/
def Obligations.OnlyChunksAndTheHostWriteMemory : Prop :=
  ∀ (s t : State) (a : Nat), BlockInv s → step s = .next t → t.mem.read a ≠ s.mem.read a →
    ((takeEvent s).1 = .chunk ∧ s.rd.busy = true ∧ s.rd.addr.toNat ≤ a ∧ a < s.rd.addr.toNat + 2 * s.rd.n) ∨
    (∃ (b : Addr) (v : Byte), (takeEvent s).1 = .memStore b v ∧ a = b.toNat)

/-- R184, R302: while a READ is in progress no step but reset changes any channel's configuration, filter
parameters, volume or lifecycle state, nor the operands the READ latched. -/
def Obligations.BusyFreezesTheReadsOperands : Prop :=
  ∀ (s t : State), s.rd.busy = true → step s = .next t → (takeEvent s).1 ≠ .reset →
    (∀ c, (t.chan c).cfg = (s.chan c).cfg ∧ (t.chan c).fp = (s.chan c).fp ∧ (t.chan c).vol = (s.chan c).vol ∧
      (t.chan c).lstate = (s.chan c).lstate) ∧
    t.rd.ch = s.rd.ch ∧ t.rd.buf = s.rd.buf ∧ t.rd.addr = s.rd.addr ∧ t.rd.n = s.rd.n

/-- R41: the samples-ready counter changes only by a completion, which adds 1 mod 2^32, and by ACK, INIT, START,
DEINIT and reset, which clear it. -/
def Obligations.PendCountChangesOnlyAsStated : Prop :=
  ∀ (s t : State) (c : Chan), step s = .next t → (t.chan c).pendCount ≠ (s.chan c).pendCount →
    ((takeEvent s).1 = .irq ∧ (s.chan c).dmaPend = true ∧
      (t.chan c).pendCount = (s.chan c).pendCount + 1#32) ∨
    ((t.chan c).pendCount = 0#32 ∧
      ((takeEvent s).1 = .reset ∨
        ∃ (w : Word) (ch : BitVec 2), (takeEvent s).1 = .write 0x00 4 w ∧ chanOf ch = some c ∧
          (decode w = .instr (.ack ch) ∨ decode w = .instr (.init ch) ∨ decode w = .instr (.start ch) ∨
            decode w = .instr (.deinit ch))))

/-- R45, R102: the write index is written by the completion handler, which advances it, and by INIT, START, DEINIT
and reset, to 0; the read index by the handler, which publishes, by READ, which consumes, and by those four, to 0. -/
def Obligations.IndicesHaveTheStatedWriters : Prop :=
  ∀ (s t : State) (c : Chan), step s = .next t →
    ((t.chan c).w ≠ (s.chan c).w →
      ((takeEvent s).1 = .irq ∧ (t.chan c).w = (s.chan c).w + 1) ∨
      ((t.chan c).w = 0 ∧
        ((takeEvent s).1 = .reset ∨
          ∃ (w : Word) (ch : BitVec 2), (takeEvent s).1 = .write 0x00 4 w ∧ chanOf ch = some c ∧
            (decode w = .instr (.init ch) ∨ decode w = .instr (.start ch) ∨ decode w = .instr (.deinit ch))))) ∧
    ((t.chan c).r ≠ (s.chan c).r →
      ((takeEvent s).1 = .irq ∧ (t.chan c).r = (s.chan c).w) ∨
      (∃ (w : Word) (ch : BitVec 2), (takeEvent s).1 = .write 0x00 4 w ∧ chanOf ch = some c ∧
        decode w = .instr (.read ch) ∧ (t.chan c).r = (s.chan c).r + 1) ∨
      ((t.chan c).r = 0 ∧
        ((takeEvent s).1 = .reset ∨
          ∃ (w : Word) (ch : BitVec 2), (takeEvent s).1 = .write 0x00 4 w ∧ chanOf ch = some c ∧
            (decode w = .instr (.init ch) ∨ decode w = .instr (.start ch) ∨ decode w = .instr (.deinit ch)))))

/-- R58, R253: OVR[c] once set stays set until the host writes 1 to bit 8 + c of IRQ_STAT, READY_PEND[c] until it writes
1 to bit c, and both at most until INIT, START or DEINIT of the channel, or reset. -/
def Obligations.NotificationsAreSticky : Prop :=
  ∀ (s t : State) (c : Chan), step s = .next t →
    ((s.chan c).ovr = true → (t.chan c).ovr = false →
      (takeEvent s).1 = .reset ∨
      (∃ v : Word, (takeEvent s).1 = .write 0x14 4 v ∧ v.getLsbD (8 + c.val) = true) ∨
      (∃ (w : Word) (ch : BitVec 2), (takeEvent s).1 = .write 0x00 4 w ∧ chanOf ch = some c ∧
        (decode w = .instr (.init ch) ∨ decode w = .instr (.start ch) ∨ decode w = .instr (.deinit ch)))) ∧
    ((s.chan c).readyPend = true → (t.chan c).readyPend = false →
      (takeEvent s).1 = .reset ∨
      (∃ v : Word, (takeEvent s).1 = .write 0x14 4 v ∧ v.getLsbD c.val = true) ∨
      (∃ (w : Word) (ch : BitVec 2), (takeEvent s).1 = .write 0x00 4 w ∧ chanOf ch = some c ∧
        (decode w = .instr (.init ch) ∨ decode w = .instr (.start ch) ∨ decode w = .instr (.deinit ch))))

/-- R142: the front end's record is changed by a successful INIT only, which loads its channel's staged binding and
the divisor and leaves the other channels' records. The record, and that DEINIT and STOP leave it as loaded, is the
model's choice (log 19). -/
def Obligations.FrontEndIsLoadedByInitOnly : Prop :=
  ∀ (s t : State), step s = .next t → t.frontEnd ≠ s.frontEnd →
    ∃ (w : Word) (ch : BitVec 2) (c : Chan), (takeEvent s).1 = .write 0x00 4 w ∧ decode w = .instr (.init ch) ∧
      chanOf ch = some c ∧ (t.chan c).lstate = .idle ∧ t.err = .ok ∧
      t.frontEnd = s.frontEnd.set c (some
        { pio := (s.stage c).pins.extractLsb' 16 4, sm := (s.stage c).pins.extractLsb' 20 4,
          dataPin := (s.stage c).pins.extractLsb' 0 8, clkPin := (s.stage c).pins.extractLsb' 8 8,
          divisor := Config.clkdivFn Config.fSys (s.stage c).rate 64 })

/-! ## Invariants -/

/-- Every step keeps host memory in its canonical form, in every state and not only the reachable ones. -/
def Obligations.MemoryStaysCanonical : Prop :=
  ∀ (s t : State), s.mem.wf → step s = .next t → t.mem.wf

/-- The invariant of the block holds after reset. -/
def Obligations.ResetMeetsTheInvariant : Prop := BlockInv State.reset

/-- Every step of every agent keeps the invariant of the block. -/
def Obligations.StepKeepsTheInvariant : Prop := ∀ (s t : State), BlockInv s → step s = .next t → BlockInv t

/-- R60, in every state reachable from reset under any inputs: (a) a pending completion is of no armed transfer;
(b) an armed channel is ACTIVE (STOP_ASYMMETRIC is false); (c) a published buffer is wholly written; (d) the filter
state is unset only where nothing is published or the channel is UNINIT. -/
def Obligations.ReachableStatesKeepTheBufferRules : Prop :=
  ∀ (s : State) (c : Chan), Reachable s →
    ((s.chan c).dmaPend = true → (s.chan c).dmaArmed = false) ∧
    ((s.chan c).dmaArmed = true → (s.chan c).lstate = .active) ∧
    ((s.chan c).r ≠ (s.chan c).w →
      ∀ i, i < (s.chan c).rawSize → ((s.chan c).rawByte? (s.chan c).r i).isSome = true) ∧
    ((s.chan c).frs = none → (s.chan c).r = (s.chan c).w ∨ (s.chan c).lstate = .uninit)

/-- R60 (c), R203: in every reachable state, a READ in progress reads no unwritten byte in its next chunk. -/
def Obligations.ReachableChunksReadWrittenBytes : Prop :=
  ∀ (s : State), Reachable s → s.rd.busy = true →
    ∀ i, i < (s.chan s.rd.ch).chunkBytes →
      ((s.chan s.rd.ch).rawByte? s.rd.buf (s.rd.k * (s.chan s.rd.ch).chunkBytes + i)).isSome = true

/-! ## A READ abandoned by a reset (70_reset_and_hazards.md) -/

/-- R340: after a reset that abandons a READ, whatever chunks were done, a host load in its output range is any value,
and host memory itself is as it was. A byte the host stores there first is then what it loads. The host's loads and
stores are log 9, that a byte written again is settled is log 10, and that a load sees memory itself is log 23. -/
def Obligations.AbandonedReadIsAnyValueUntilWritten : Prop :=
  ∀ (s : State) (a : Addr) (v : Byte) (rest : List Event), s.rd.busy = true → s.rd.addr.toNat ≤ a.toNat →
    a.toNat < s.rd.addr.toNat + 2 * s.rd.n →
    (s.agenda = .reset :: .memLoad a :: rest →
      ∃ t u, step s = .next t ∧ t.rd.busy = false ∧ t.mem = s.mem ∧ step t = .next u ∧ u.mem = s.mem ∧
        u.hostData = 0#24 ++ Config.outputByte s.draws) ∧
    (s.agenda = .reset :: .memStore a v :: .memLoad a :: rest →
      ∃ t u r, step s = .next t ∧ step t = .next u ∧ step u = .next r ∧ r.hostData = 0#24 ++ v)
end

