-- ==== Sys2Proof/Laws/Memory.lean ====
section
/-!
SUPPORT. The laws of memory: a read after a write, the canonical form every operation keeps, and the two-byte and
chunk-wide writes of R88 and R203.
-/

namespace Sys2Proof.Machine

/-! ## One byte -/

@[simp] theorem Memory.read_nil (a : Nat) : Memory.read [] a = none := rfl

theorem Memory.read_write (m : Memory) (a b : Nat) (v : Byte) :
    (m.write a v).read b = if a = b then some v else m.read b := by
  induction m with
  | nil => simp [Memory.write, Memory.read]
  | cons x rest ih =>
    obtain ⟨k, w⟩ := x
    simp only [Memory.write]
    split
    · simp [Memory.read]
    · split
      · subst a; simp only [Memory.read]; split <;> rfl
      · simp only [Memory.read, ih]; split <;> split <;> simp_all

@[simp] theorem Memory.read_write_self (m : Memory) (a : Nat) (v : Byte) : (m.write a v).read a = some v := by
  simp [Memory.read_write]

@[simp] theorem Memory.read_write_ne (m : Memory) {a b : Nat} (v : Byte) (h : b ≠ a) :
    (m.write a v).read b = m.read b := by
  simp [Memory.read_write, Ne.symm h]

/-- A write lists only addresses that were listed, and its own. -/
theorem Memory.mem_write {m : Memory} {a : Nat} {v : Byte} {x : Host.Cell} (h : x ∈ m.write a v) :
    x = (a, v) ∨ x ∈ m := by
  induction m with
  | nil => simpa [Memory.write] using h
  | cons y rest ih =>
    simp only [Memory.write] at h
    split at h
    · simpa using h
    · split at h
      · rcases List.mem_cons.1 h with h | h <;> simp [h]
      · rcases List.mem_cons.1 h with h | h
        · simp [h]
        · rcases ih h with h | h <;> simp [h]

theorem Memory.sorted_write {m : Memory} (a : Nat) (v : Byte) (h : m.sorted) : (m.write a v).sorted := by
  induction m with
  | nil => simp [Memory.write]
  | cons x rest ih =>
    obtain ⟨k, w⟩ := x
    obtain ⟨hk, hrest⟩ := List.pairwise_cons.1 h
    simp only [Memory.write]
    split
    · rename_i hlt
      refine List.pairwise_cons.2 ⟨fun y hy => ?_, h⟩
      rcases List.mem_cons.1 hy with rfl | hy
      · exact hlt
      · exact lt_trans hlt (hk y hy)
    · split
      · subst a; exact List.pairwise_cons.2 ⟨hk, hrest⟩
      · refine List.pairwise_cons.2 ⟨fun y hy => ?_, ih hrest⟩
        rcases Memory.mem_write hy with rfl | hy
        · show k < a; omega
        · exact hk y hy

theorem Memory.below_write {m : Memory} {n : Nat} (a : Nat) (v : Byte) (ha : a < n) (h : m.below n) :
    (m.write a v).below n := by
  intro x hx
  rcases Memory.mem_write hx with rfl | hx
  · exact ha
  · exact h x hx

theorem Memory.wf_write {m : Memory} {a : Nat} (v : Byte) (ha : a < 2 ^ 32) (h : m.wf) : (m.write a v).wf :=
  ⟨Memory.sorted_write a v h.1, Memory.below_write a v ha h.2⟩

theorem Memory.wf_nil : Memory.wf [] := by simp [Memory.wf, Memory.sorted, Memory.below]

/-- A canonical memory lists exactly what it reads as. -/
theorem Memory.mem_iff_read {m : Memory} (h : m.sorted) (a : Nat) (v : Byte) : (a, v) ∈ m ↔ m.read a = some v := by
  induction m with
  | nil => simp
  | cons x rest ih =>
    obtain ⟨k, w⟩ := x
    obtain ⟨hk, hrest⟩ := List.pairwise_cons.1 h
    simp only [List.mem_cons, Prod.mk.injEq, Memory.read]
    split
    · subst k
      refine ⟨?_, fun e => Or.inl ⟨rfl, by simpa using e.symm⟩⟩
      rintro (⟨-, rfl⟩ | hmem)
      · rfl
      · exact absurd (hk _ hmem) (lt_irrefl _)
    · rename_i hne
      rw [← ih hrest]
      constructor
      · rintro (⟨rfl, -⟩ | hmem)
        · exact absurd rfl hne
        · exact hmem
      · exact Or.inr

/-- The canonical form makes equal memories equal data. -/
theorem Memory.eq_of_read_eq {m m' : Memory} (h : m.sorted) (h' : m'.sorted) (e : ∀ a, m.read a = m'.read a) :
    m = m' := by
  have key : ∀ {n n' : Memory}, n.sorted → n'.sorted → (∀ a, n.read a = n'.read a) → ∀ x ∈ n, x ∈ n' :=
    fun hn hn' he x hx => (Memory.mem_iff_read hn' x.1 x.2).2 (he x.1 ▸ (Memory.mem_iff_read hn x.1 x.2).1 hx)
  have nd : ∀ {n : Memory}, n.sorted → n.Nodup := fun hn => hn.imp (fun {x y} hxy => by rintro rfl; omega)
  refine List.Perm.eq_of_pairwise (le := fun x y => x.1 < y.1) (fun x y _ _ hxy hyx => by omega) h h' ?_
  exact (List.perm_ext_iff_of_nodup (nd h) (nd h')).2
    (fun x => ⟨key h h' e x, key h' h (fun a => (e a).symm) x⟩)

/-! ## Two bytes (R88) -/

theorem Memory.read_write16 (m : Memory) (a b : Nat) (v : Half) :
    (m.write16 a v).read b =
      if b = a then some (v.extractLsb' 0 8) else if b = a + 1 then some (v.extractLsb' 8 8) else m.read b := by
  simp only [Memory.write16, Memory.read_write]
  split <;> split <;> (try split) <;> (try split) <;> first | rfl | omega

@[simp] theorem Memory.read_write16_ne (m : Memory) {a b : Nat} (v : Half) (h : b ≠ a) (h' : b ≠ a + 1) :
    (m.write16 a v).read b = m.read b := by
  simp [Memory.read_write16, h, h']

theorem Memory.wf_write16 {m : Memory} {a : Nat} (v : Half) (ha : a + 2 ≤ 2 ^ 32) (h : m.wf) :
    (m.write16 a v).wf :=
  Memory.wf_write _ (by omega) (Memory.wf_write _ (by omega) h)

/-! ## A chunk of samples (R203) -/

/-- What a chunk's writes do not touch. -/
theorem Memory.read_writeSamples_outside (xs : List Half) (m : Memory) (a b : Nat)
    (h : b < a ∨ a + 2 * xs.length ≤ b) : (m.writeSamples a xs).read b = m.read b := by
  induction xs generalizing m a with
  | nil => rfl
  | cons x xs ih =>
    simp only [List.length_cons] at h
    rw [Memory.writeSamples, ih _ _ (by omega), Memory.read_write16_ne _ _ (by omega) (by omega)]

/-- Sample `i` of a chunk, little-endian (R88, R206). -/
theorem Memory.read_writeSamples (xs : List Half) (m : Memory) (a i : Nat) (h : i < xs.length) :
    (m.writeSamples a xs).read (a + 2 * i) = some (xs[i].extractLsb' 0 8) ∧
      (m.writeSamples a xs).read (a + 2 * i + 1) = some (xs[i].extractLsb' 8 8) := by
  induction xs generalizing m a i with
  | nil => simp at h
  | cons x xs ih =>
    cases i with
    | zero =>
      constructor
      · rw [Memory.writeSamples, Memory.read_writeSamples_outside _ _ _ _ (by omega)]
        simp [Memory.read_write16]
      · rw [Memory.writeSamples, Memory.read_writeSamples_outside _ _ _ _ (by omega)]
        simp [Memory.read_write16]
    | succ i =>
      have := ih (m.write16 a x) (a + 2) i (by simpa using h)
      rw [show a + 2 + 2 * i = a + 2 * (i + 1) from by omega] at this
      simpa [Memory.writeSamples] using this

theorem Memory.wf_writeSamples (xs : List Half) {m : Memory} {a : Nat} (ha : a + 2 * xs.length ≤ 2 ^ 32)
    (h : m.wf) : (m.writeSamples a xs).wf := by
  induction xs generalizing m a with
  | nil => exact h
  | cons x xs ih =>
    simp only [List.length_cons] at ha
    exact ih (by omega) (Memory.wf_write16 x (by omega) h)

/-! ## Open ranges (R340; log 10) -/

@[simp] theorem isOpen_nil (a : Nat) : isOpen [] a = false := rfl

@[simp] theorem isOpen_cons (g : OpenRange) (gs : List OpenRange) (a : Nat) :
    isOpen (g :: gs) a = ((decide (g.lo ≤ a) && decide (a < g.hi)) || isOpen gs a) := rfl

/-- A cut takes exactly the bytes cut out of a range. -/
theorem isOpen_cut (lo hi : Nat) (g : OpenRange) (a : Nat) :
    isOpen (g.cut lo hi) a =
      ((decide (g.lo ≤ a) && decide (a < g.hi)) && !(decide (lo ≤ a) && decide (a < hi))) := by
  rw [Bool.eq_iff_iff]
  simp [isOpen, OpenRange.cut]
  omega

/-- A written byte is settled, and every other one as open as before. -/
theorem isOpen_settle (lo hi : Nat) (gs : List OpenRange) (a : Nat) :
    isOpen (settle lo hi gs) a = (isOpen gs a && !(decide (lo ≤ a) && decide (a < hi))) := by
  induction gs with
  | nil => rfl
  | cons g gs ih =>
    have happend : isOpen (settle lo hi (g :: gs)) a = (isOpen (g.cut lo hi) a || isOpen (settle lo hi gs) a) := by
      simp [isOpen, settle]
    rw [happend, isOpen_cut, ih, isOpen_cons, Bool.and_or_distrib_right]

end Sys2Proof.Machine
end

