-- ==== Sys2Proof/Laws/State.lean ====
section
/-!
SUPPORT. One lemma per field per update of State and Channel, each true by rfl, and the access laws of the
per-channel vectors.
-/

namespace Sys2Proof.Machine

/-! ## Access to channels and staging registers -/

theorem State.chan_setChan (s : State) (c d : Chan) (x : Channel) :
    (s.setChan c x).chan d = if c = d then x else s.chan d := by
  simp [State.chan, State.setChan, Vector.getElem_set, Fin.ext_iff]

@[simp] theorem State.chan_setChan_self (s : State) (c : Chan) (x : Channel) : (s.setChan c x).chan c = x := by
  simp [State.chan_setChan]

@[simp] theorem State.chan_setChan_ne (s : State) {c d : Chan} (x : Channel) (h : d ≠ c) :
    (s.setChan c x).chan d = s.chan d := by
  simp [State.chan_setChan, Ne.symm h]

@[simp] theorem State.chan_modChan_self (s : State) (c : Chan) (f : Channel → Channel) :
    (s.modChan c f).chan c = f (s.chan c) := by
  simp [State.modChan]

@[simp] theorem State.chan_modChan_ne (s : State) {c d : Chan} (f : Channel → Channel) (h : d ≠ c) :
    (s.modChan c f).chan d = s.chan d := by
  simp [State.modChan, h]

theorem State.stage_modStage (s : State) (c d : Chan) (f : Staging → Staging) :
    (s.modStage c f).stage d = if c = d then f (s.stage c) else s.stage d := by
  simp [State.stage, State.modStage, Vector.getElem_set, Fin.ext_iff]

@[simp] theorem State.stage_modStage_self (s : State) (c : Chan) (f : Staging → Staging) :
    (s.modStage c f).stage c = f (s.stage c) := by
  simp [State.stage_modStage]

@[simp] theorem State.stage_modStage_ne (s : State) {c d : Chan} (f : Staging → Staging) (h : d ≠ c) :
    (s.modStage c f).stage d = s.stage d := by
  simp [State.stage_modStage, Ne.symm h]

/-- A channel is read from `chans` alone. -/
theorem State.chan_congr {s t : State} (h : t.chans = s.chans) (c : Chan) : t.chan c = s.chan c := by
  simp [State.chan, h]

/-- The staging registers of a channel are read from `staging` alone. -/
theorem State.stage_congr {s t : State} (h : t.staging = s.staging) (c : Chan) : t.stage c = s.stage c := by
  simp [State.stage, h]

@[simp] theorem State.reset_chan (c : Chan) : State.reset.chan c = Channel.reset := by
  fin_cases c <;> rfl

@[simp] theorem State.reset_stage (c : Chan) : State.reset.stage c = Staging.reset := by
  fin_cases c <;> rfl


/-! ## Fields after `State.setChan` -/

@[simp] theorem State.setChan_lost (s : State) (c : Chan) (x : Channel) : (s.setChan c x).lost = s.lost := rfl
@[simp] theorem State.setChan_fault (s : State) (c : Chan) (x : Channel) : (s.setChan c x).fault = s.fault := rfl
@[simp] theorem State.setChan_err (s : State) (c : Chan) (x : Channel) : (s.setChan c x).err = s.err := rfl
@[simp] theorem State.setChan_result (s : State) (c : Chan) (x : Channel) : (s.setChan c x).result = s.result := rfl
@[simp] theorem State.setChan_arg0 (s : State) (c : Chan) (x : Channel) : (s.setChan c x).arg0 = s.arg0 := rfl
@[simp] theorem State.setChan_arg1 (s : State) (c : Chan) (x : Channel) : (s.setChan c x).arg1 = s.arg1 := rfl
@[simp] theorem State.setChan_staging (s : State) (c : Chan) (x : Channel) : (s.setChan c x).staging = s.staging := rfl
@[simp] theorem State.setChan_lineEn (s : State) (c : Chan) (x : Channel) : (s.setChan c x).lineEn = s.lineEn := rfl
@[simp] theorem State.setChan_rd (s : State) (c : Chan) (x : Channel) : (s.setChan c x).rd = s.rd := rfl
@[simp] theorem State.setChan_mem (s : State) (c : Chan) (x : Channel) : (s.setChan c x).mem = s.mem := rfl
@[simp] theorem State.setChan_openRanges (s : State) (c : Chan) (x : Channel) : (s.setChan c x).openRanges = s.openRanges := rfl
@[simp] theorem State.setChan_frontEnd (s : State) (c : Chan) (x : Channel) : (s.setChan c x).frontEnd = s.frontEnd := rfl
@[simp] theorem State.setChan_agenda (s : State) (c : Chan) (x : Channel) : (s.setChan c x).agenda = s.agenda := rfl
@[simp] theorem State.setChan_answers (s : State) (c : Chan) (x : Channel) : (s.setChan c x).answers = s.answers := rfl
@[simp] theorem State.setChan_draws (s : State) (c : Chan) (x : Channel) : (s.setChan c x).draws = s.draws := rfl
@[simp] theorem State.setChan_hostData (s : State) (c : Chan) (x : Channel) : (s.setChan c x).hostData = s.hostData := rfl
@[simp] theorem State.setChan_stage (s : State) (c : Chan) (x : Channel) (d : Chan) : (s.setChan c x).stage d = s.stage d := rfl

/-! ## Fields after `State.modChan` -/

@[simp] theorem State.modChan_lost (s : State) (c : Chan) (f : Channel → Channel) : (s.modChan c f).lost = s.lost := rfl
@[simp] theorem State.modChan_fault (s : State) (c : Chan) (f : Channel → Channel) : (s.modChan c f).fault = s.fault := rfl
@[simp] theorem State.modChan_err (s : State) (c : Chan) (f : Channel → Channel) : (s.modChan c f).err = s.err := rfl
@[simp] theorem State.modChan_result (s : State) (c : Chan) (f : Channel → Channel) : (s.modChan c f).result = s.result := rfl
@[simp] theorem State.modChan_arg0 (s : State) (c : Chan) (f : Channel → Channel) : (s.modChan c f).arg0 = s.arg0 := rfl
@[simp] theorem State.modChan_arg1 (s : State) (c : Chan) (f : Channel → Channel) : (s.modChan c f).arg1 = s.arg1 := rfl
@[simp] theorem State.modChan_staging (s : State) (c : Chan) (f : Channel → Channel) : (s.modChan c f).staging = s.staging := rfl
@[simp] theorem State.modChan_lineEn (s : State) (c : Chan) (f : Channel → Channel) : (s.modChan c f).lineEn = s.lineEn := rfl
@[simp] theorem State.modChan_rd (s : State) (c : Chan) (f : Channel → Channel) : (s.modChan c f).rd = s.rd := rfl
@[simp] theorem State.modChan_mem (s : State) (c : Chan) (f : Channel → Channel) : (s.modChan c f).mem = s.mem := rfl
@[simp] theorem State.modChan_openRanges (s : State) (c : Chan) (f : Channel → Channel) : (s.modChan c f).openRanges = s.openRanges := rfl
@[simp] theorem State.modChan_frontEnd (s : State) (c : Chan) (f : Channel → Channel) : (s.modChan c f).frontEnd = s.frontEnd := rfl
@[simp] theorem State.modChan_agenda (s : State) (c : Chan) (f : Channel → Channel) : (s.modChan c f).agenda = s.agenda := rfl
@[simp] theorem State.modChan_answers (s : State) (c : Chan) (f : Channel → Channel) : (s.modChan c f).answers = s.answers := rfl
@[simp] theorem State.modChan_draws (s : State) (c : Chan) (f : Channel → Channel) : (s.modChan c f).draws = s.draws := rfl
@[simp] theorem State.modChan_hostData (s : State) (c : Chan) (f : Channel → Channel) : (s.modChan c f).hostData = s.hostData := rfl
@[simp] theorem State.modChan_stage (s : State) (c : Chan) (f : Channel → Channel) (d : Chan) : (s.modChan c f).stage d = s.stage d := rfl

/-! ## Fields after `State.modStage` -/

@[simp] theorem State.modStage_lost (s : State) (c : Chan) (f : Staging → Staging) : (s.modStage c f).lost = s.lost := rfl
@[simp] theorem State.modStage_fault (s : State) (c : Chan) (f : Staging → Staging) : (s.modStage c f).fault = s.fault := rfl
@[simp] theorem State.modStage_err (s : State) (c : Chan) (f : Staging → Staging) : (s.modStage c f).err = s.err := rfl
@[simp] theorem State.modStage_result (s : State) (c : Chan) (f : Staging → Staging) : (s.modStage c f).result = s.result := rfl
@[simp] theorem State.modStage_arg0 (s : State) (c : Chan) (f : Staging → Staging) : (s.modStage c f).arg0 = s.arg0 := rfl
@[simp] theorem State.modStage_arg1 (s : State) (c : Chan) (f : Staging → Staging) : (s.modStage c f).arg1 = s.arg1 := rfl
@[simp] theorem State.modStage_chans (s : State) (c : Chan) (f : Staging → Staging) : (s.modStage c f).chans = s.chans := rfl
@[simp] theorem State.modStage_lineEn (s : State) (c : Chan) (f : Staging → Staging) : (s.modStage c f).lineEn = s.lineEn := rfl
@[simp] theorem State.modStage_rd (s : State) (c : Chan) (f : Staging → Staging) : (s.modStage c f).rd = s.rd := rfl
@[simp] theorem State.modStage_mem (s : State) (c : Chan) (f : Staging → Staging) : (s.modStage c f).mem = s.mem := rfl
@[simp] theorem State.modStage_openRanges (s : State) (c : Chan) (f : Staging → Staging) : (s.modStage c f).openRanges = s.openRanges := rfl
@[simp] theorem State.modStage_frontEnd (s : State) (c : Chan) (f : Staging → Staging) : (s.modStage c f).frontEnd = s.frontEnd := rfl
@[simp] theorem State.modStage_agenda (s : State) (c : Chan) (f : Staging → Staging) : (s.modStage c f).agenda = s.agenda := rfl
@[simp] theorem State.modStage_answers (s : State) (c : Chan) (f : Staging → Staging) : (s.modStage c f).answers = s.answers := rfl
@[simp] theorem State.modStage_draws (s : State) (c : Chan) (f : Staging → Staging) : (s.modStage c f).draws = s.draws := rfl
@[simp] theorem State.modStage_hostData (s : State) (c : Chan) (f : Staging → Staging) : (s.modStage c f).hostData = s.hostData := rfl
@[simp] theorem State.modStage_chan (s : State) (c : Chan) (f : Staging → Staging) (d : Chan) : (s.modStage c f).chan d = s.chan d := rfl

/-! ## Fields after `report` -/

@[simp] theorem report_lost (e : ErrCode) (v : Word) (s : State) : (report e v s).lost = s.lost := rfl
@[simp] theorem report_fault (e : ErrCode) (v : Word) (s : State) : (report e v s).fault = s.fault := rfl
@[simp] theorem report_err (e : ErrCode) (v : Word) (s : State) : (report e v s).err = e := rfl
@[simp] theorem report_result (e : ErrCode) (v : Word) (s : State) : (report e v s).result = v := rfl
@[simp] theorem report_arg0 (e : ErrCode) (v : Word) (s : State) : (report e v s).arg0 = s.arg0 := rfl
@[simp] theorem report_arg1 (e : ErrCode) (v : Word) (s : State) : (report e v s).arg1 = s.arg1 := rfl
@[simp] theorem report_staging (e : ErrCode) (v : Word) (s : State) : (report e v s).staging = s.staging := rfl
@[simp] theorem report_chans (e : ErrCode) (v : Word) (s : State) : (report e v s).chans = s.chans := rfl
@[simp] theorem report_lineEn (e : ErrCode) (v : Word) (s : State) : (report e v s).lineEn = s.lineEn := rfl
@[simp] theorem report_rd (e : ErrCode) (v : Word) (s : State) : (report e v s).rd = s.rd := rfl
@[simp] theorem report_mem (e : ErrCode) (v : Word) (s : State) : (report e v s).mem = s.mem := rfl
@[simp] theorem report_openRanges (e : ErrCode) (v : Word) (s : State) : (report e v s).openRanges = s.openRanges := rfl
@[simp] theorem report_frontEnd (e : ErrCode) (v : Word) (s : State) : (report e v s).frontEnd = s.frontEnd := rfl
@[simp] theorem report_agenda (e : ErrCode) (v : Word) (s : State) : (report e v s).agenda = s.agenda := rfl
@[simp] theorem report_answers (e : ErrCode) (v : Word) (s : State) : (report e v s).answers = s.answers := rfl
@[simp] theorem report_draws (e : ErrCode) (v : Word) (s : State) : (report e v s).draws = s.draws := rfl
@[simp] theorem report_hostData (e : ErrCode) (v : Word) (s : State) : (report e v s).hostData = s.hostData := rfl
@[simp] theorem report_chan (e : ErrCode) (v : Word) (s : State) (d : Chan) : (report e v s).chan d = s.chan d := rfl
@[simp] theorem report_stage (e : ErrCode) (v : Word) (s : State) (d : Chan) : (report e v s).stage d = s.stage d := rfl

/-! ## Fields after `raise` -/

@[simp] theorem raise_lost (e : ErrCode) (s : State) : (raise e s).lost = s.lost := rfl
@[simp] theorem raise_fault (e : ErrCode) (s : State) : (raise e s).fault = s.fault := rfl
@[simp] theorem raise_err (e : ErrCode) (s : State) : (raise e s).err = e := rfl
@[simp] theorem raise_result (e : ErrCode) (s : State) : (raise e s).result = 0#32 := rfl
@[simp] theorem raise_arg0 (e : ErrCode) (s : State) : (raise e s).arg0 = s.arg0 := rfl
@[simp] theorem raise_arg1 (e : ErrCode) (s : State) : (raise e s).arg1 = s.arg1 := rfl
@[simp] theorem raise_staging (e : ErrCode) (s : State) : (raise e s).staging = s.staging := rfl
@[simp] theorem raise_chans (e : ErrCode) (s : State) : (raise e s).chans = s.chans := rfl
@[simp] theorem raise_lineEn (e : ErrCode) (s : State) : (raise e s).lineEn = s.lineEn := rfl
@[simp] theorem raise_rd (e : ErrCode) (s : State) : (raise e s).rd = s.rd := rfl
@[simp] theorem raise_mem (e : ErrCode) (s : State) : (raise e s).mem = s.mem := rfl
@[simp] theorem raise_openRanges (e : ErrCode) (s : State) : (raise e s).openRanges = s.openRanges := rfl
@[simp] theorem raise_frontEnd (e : ErrCode) (s : State) : (raise e s).frontEnd = s.frontEnd := rfl
@[simp] theorem raise_agenda (e : ErrCode) (s : State) : (raise e s).agenda = s.agenda := rfl
@[simp] theorem raise_answers (e : ErrCode) (s : State) : (raise e s).answers = s.answers := rfl
@[simp] theorem raise_draws (e : ErrCode) (s : State) : (raise e s).draws = s.draws := rfl
@[simp] theorem raise_hostData (e : ErrCode) (s : State) : (raise e s).hostData = s.hostData := rfl
@[simp] theorem raise_chan (e : ErrCode) (s : State) (d : Chan) : (raise e s).chan d = s.chan d := rfl
@[simp] theorem raise_stage (e : ErrCode) (s : State) (d : Chan) : (raise e s).stage d = s.stage d := rfl

/-! ## Fields after `finish` -/

@[simp] theorem finish_lost (s : State) : (finish s).lost = s.lost := rfl
@[simp] theorem finish_fault (s : State) : (finish s).fault = s.fault := rfl
@[simp] theorem finish_err (s : State) : (finish s).err = .ok := rfl
@[simp] theorem finish_result (s : State) : (finish s).result = 0#32 := rfl
@[simp] theorem finish_arg0 (s : State) : (finish s).arg0 = s.arg0 := rfl
@[simp] theorem finish_arg1 (s : State) : (finish s).arg1 = s.arg1 := rfl
@[simp] theorem finish_staging (s : State) : (finish s).staging = s.staging := rfl
@[simp] theorem finish_chans (s : State) : (finish s).chans = s.chans := rfl
@[simp] theorem finish_lineEn (s : State) : (finish s).lineEn = s.lineEn := rfl
@[simp] theorem finish_rd (s : State) : (finish s).rd = s.rd := rfl
@[simp] theorem finish_mem (s : State) : (finish s).mem = s.mem := rfl
@[simp] theorem finish_openRanges (s : State) : (finish s).openRanges = s.openRanges := rfl
@[simp] theorem finish_frontEnd (s : State) : (finish s).frontEnd = s.frontEnd := rfl
@[simp] theorem finish_agenda (s : State) : (finish s).agenda = s.agenda := rfl
@[simp] theorem finish_answers (s : State) : (finish s).answers = s.answers := rfl
@[simp] theorem finish_draws (s : State) : (finish s).draws = s.draws := rfl
@[simp] theorem finish_hostData (s : State) : (finish s).hostData = s.hostData := rfl
@[simp] theorem finish_chan (s : State) (d : Chan) : (finish s).chan d = s.chan d := rfl
@[simp] theorem finish_stage (s : State) (d : Chan) : (finish s).stage d = s.stage d := rfl

/-! ## Fields after `enterBusFault` -/

@[simp] theorem enterBusFault_lost (s : State) : (enterBusFault s).lost = s.lost := rfl
@[simp] theorem enterBusFault_fault (s : State) : (enterBusFault s).fault = true := rfl
@[simp] theorem enterBusFault_err (s : State) : (enterBusFault s).err = .busFault := rfl
@[simp] theorem enterBusFault_result (s : State) : (enterBusFault s).result = s.result := rfl
@[simp] theorem enterBusFault_arg0 (s : State) : (enterBusFault s).arg0 = s.arg0 := rfl
@[simp] theorem enterBusFault_arg1 (s : State) : (enterBusFault s).arg1 = s.arg1 := rfl
@[simp] theorem enterBusFault_staging (s : State) : (enterBusFault s).staging = s.staging := rfl
@[simp] theorem enterBusFault_chans (s : State) : (enterBusFault s).chans = s.chans := rfl
@[simp] theorem enterBusFault_lineEn (s : State) : (enterBusFault s).lineEn = s.lineEn := rfl
@[simp] theorem enterBusFault_rd (s : State) : (enterBusFault s).rd = s.rd := rfl
@[simp] theorem enterBusFault_mem (s : State) : (enterBusFault s).mem = s.mem := rfl
@[simp] theorem enterBusFault_openRanges (s : State) : (enterBusFault s).openRanges = s.openRanges := rfl
@[simp] theorem enterBusFault_frontEnd (s : State) : (enterBusFault s).frontEnd = s.frontEnd := rfl
@[simp] theorem enterBusFault_agenda (s : State) : (enterBusFault s).agenda = s.agenda := rfl
@[simp] theorem enterBusFault_answers (s : State) : (enterBusFault s).answers = s.answers := rfl
@[simp] theorem enterBusFault_draws (s : State) : (enterBusFault s).draws = s.draws := rfl
@[simp] theorem enterBusFault_hostData (s : State) : (enterBusFault s).hostData = s.hostData := rfl
@[simp] theorem enterBusFault_chan (s : State) (d : Chan) : (enterBusFault s).chan d = s.chan d := rfl
@[simp] theorem enterBusFault_stage (s : State) (d : Chan) : (enterBusFault s).stage d = s.stage d := rfl

/-! ## Fields after `reportOnly` -/

@[simp] theorem reportOnly_lost (e : ErrCode) (s : State) : (reportOnly e s).lost = false := rfl
@[simp] theorem reportOnly_fault (e : ErrCode) (s : State) : (reportOnly e s).fault = s.fault := rfl
@[simp] theorem reportOnly_err (e : ErrCode) (s : State) : (reportOnly e s).err = e := rfl
@[simp] theorem reportOnly_result (e : ErrCode) (s : State) : (reportOnly e s).result = 0#32 := rfl
@[simp] theorem reportOnly_arg0 (e : ErrCode) (s : State) : (reportOnly e s).arg0 = s.arg0 := rfl
@[simp] theorem reportOnly_arg1 (e : ErrCode) (s : State) : (reportOnly e s).arg1 = s.arg1 := rfl
@[simp] theorem reportOnly_staging (e : ErrCode) (s : State) : (reportOnly e s).staging = s.staging := rfl
@[simp] theorem reportOnly_chans (e : ErrCode) (s : State) : (reportOnly e s).chans = s.chans := rfl
@[simp] theorem reportOnly_lineEn (e : ErrCode) (s : State) : (reportOnly e s).lineEn = s.lineEn := rfl
@[simp] theorem reportOnly_rd (e : ErrCode) (s : State) : (reportOnly e s).rd = s.rd := rfl
@[simp] theorem reportOnly_mem (e : ErrCode) (s : State) : (reportOnly e s).mem = s.mem := rfl
@[simp] theorem reportOnly_openRanges (e : ErrCode) (s : State) : (reportOnly e s).openRanges = s.openRanges := rfl
@[simp] theorem reportOnly_frontEnd (e : ErrCode) (s : State) : (reportOnly e s).frontEnd = s.frontEnd := rfl
@[simp] theorem reportOnly_agenda (e : ErrCode) (s : State) : (reportOnly e s).agenda = s.agenda := rfl
@[simp] theorem reportOnly_answers (e : ErrCode) (s : State) : (reportOnly e s).answers = s.answers := rfl
@[simp] theorem reportOnly_draws (e : ErrCode) (s : State) : (reportOnly e s).draws = s.draws := rfl
@[simp] theorem reportOnly_hostData (e : ErrCode) (s : State) : (reportOnly e s).hostData = s.hostData := rfl
@[simp] theorem reportOnly_chan (e : ErrCode) (s : State) (d : Chan) : (reportOnly e s).chan d = s.chan d := rfl
@[simp] theorem reportOnly_stage (e : ErrCode) (s : State) (d : Chan) : (reportOnly e s).stage d = s.stage d := rfl

/-! ## Fields after `programCapture` -/

@[simp] theorem programCapture_lost (c : Chan) (cfg : ChanConfig) (s : State) : (programCapture c cfg s).lost = s.lost := rfl
@[simp] theorem programCapture_fault (c : Chan) (cfg : ChanConfig) (s : State) : (programCapture c cfg s).fault = s.fault := rfl
@[simp] theorem programCapture_err (c : Chan) (cfg : ChanConfig) (s : State) : (programCapture c cfg s).err = s.err := rfl
@[simp] theorem programCapture_result (c : Chan) (cfg : ChanConfig) (s : State) : (programCapture c cfg s).result = s.result := rfl
@[simp] theorem programCapture_arg0 (c : Chan) (cfg : ChanConfig) (s : State) : (programCapture c cfg s).arg0 = s.arg0 := rfl
@[simp] theorem programCapture_arg1 (c : Chan) (cfg : ChanConfig) (s : State) : (programCapture c cfg s).arg1 = s.arg1 := rfl
@[simp] theorem programCapture_staging (c : Chan) (cfg : ChanConfig) (s : State) : (programCapture c cfg s).staging = s.staging := rfl
@[simp] theorem programCapture_chans (c : Chan) (cfg : ChanConfig) (s : State) : (programCapture c cfg s).chans = s.chans := rfl
@[simp] theorem programCapture_lineEn (c : Chan) (cfg : ChanConfig) (s : State) : (programCapture c cfg s).lineEn = s.lineEn := rfl
@[simp] theorem programCapture_rd (c : Chan) (cfg : ChanConfig) (s : State) : (programCapture c cfg s).rd = s.rd := rfl
@[simp] theorem programCapture_mem (c : Chan) (cfg : ChanConfig) (s : State) : (programCapture c cfg s).mem = s.mem := rfl
@[simp] theorem programCapture_openRanges (c : Chan) (cfg : ChanConfig) (s : State) : (programCapture c cfg s).openRanges = s.openRanges := rfl
@[simp] theorem programCapture_agenda (c : Chan) (cfg : ChanConfig) (s : State) : (programCapture c cfg s).agenda = s.agenda := rfl
@[simp] theorem programCapture_answers (c : Chan) (cfg : ChanConfig) (s : State) : (programCapture c cfg s).answers = s.answers := rfl
@[simp] theorem programCapture_draws (c : Chan) (cfg : ChanConfig) (s : State) : (programCapture c cfg s).draws = s.draws := rfl
@[simp] theorem programCapture_hostData (c : Chan) (cfg : ChanConfig) (s : State) : (programCapture c cfg s).hostData = s.hostData := rfl
@[simp] theorem programCapture_chan (c : Chan) (cfg : ChanConfig) (s : State) (d : Chan) : (programCapture c cfg s).chan d = s.chan d := rfl
@[simp] theorem programCapture_stage (c : Chan) (cfg : ChanConfig) (s : State) (d : Chan) : (programCapture c cfg s).stage d = s.stage d := rfl

/-! ## Fields after `queueCommand` -/

@[simp] theorem queueCommand_lost (w : Word) (s : State) : (queueCommand w s).lost = s.lost := rfl
@[simp] theorem queueCommand_fault (w : Word) (s : State) : (queueCommand w s).fault = s.fault := rfl
@[simp] theorem queueCommand_err (w : Word) (s : State) : (queueCommand w s).err = s.err := rfl
@[simp] theorem queueCommand_result (w : Word) (s : State) : (queueCommand w s).result = s.result := rfl
@[simp] theorem queueCommand_arg0 (w : Word) (s : State) : (queueCommand w s).arg0 = s.arg0 := rfl
@[simp] theorem queueCommand_arg1 (w : Word) (s : State) : (queueCommand w s).arg1 = s.arg1 := rfl
@[simp] theorem queueCommand_staging (w : Word) (s : State) : (queueCommand w s).staging = s.staging := rfl
@[simp] theorem queueCommand_chans (w : Word) (s : State) : (queueCommand w s).chans = s.chans := rfl
@[simp] theorem queueCommand_lineEn (w : Word) (s : State) : (queueCommand w s).lineEn = s.lineEn := rfl
@[simp] theorem queueCommand_rd (w : Word) (s : State) : (queueCommand w s).rd = s.rd := rfl
@[simp] theorem queueCommand_mem (w : Word) (s : State) : (queueCommand w s).mem = s.mem := rfl
@[simp] theorem queueCommand_openRanges (w : Word) (s : State) : (queueCommand w s).openRanges = s.openRanges := rfl
@[simp] theorem queueCommand_frontEnd (w : Word) (s : State) : (queueCommand w s).frontEnd = s.frontEnd := rfl
@[simp] theorem queueCommand_agenda (w : Word) (s : State) : (queueCommand w s).agenda = .write Reg.cmd.offset 4 w :: s.agenda := rfl
@[simp] theorem queueCommand_answers (w : Word) (s : State) : (queueCommand w s).answers = s.answers := rfl
@[simp] theorem queueCommand_draws (w : Word) (s : State) : (queueCommand w s).draws = s.draws := rfl
@[simp] theorem queueCommand_hostData (w : Word) (s : State) : (queueCommand w s).hostData = s.hostData := rfl
@[simp] theorem queueCommand_chan (w : Word) (s : State) (d : Chan) : (queueCommand w s).chan d = s.chan d := rfl
@[simp] theorem queueCommand_stage (w : Word) (s : State) (d : Chan) : (queueCommand w s).stage d = s.stage d := rfl

/-! ## Channels and staging registers after a direct field update -/

@[simp] theorem State.chan_with_lost (s : State) (v : Bool) (d : Chan) : (State.mk v s.fault s.err s.result s.arg0 s.arg1 s.staging s.chans s.lineEn s.rd s.mem s.openRanges s.frontEnd s.agenda s.answers s.draws s.hostData).chan d = s.chan d := rfl
@[simp] theorem State.stage_with_lost (s : State) (v : Bool) (d : Chan) : (State.mk v s.fault s.err s.result s.arg0 s.arg1 s.staging s.chans s.lineEn s.rd s.mem s.openRanges s.frontEnd s.agenda s.answers s.draws s.hostData).stage d = s.stage d := rfl
@[simp] theorem State.chan_with_fault (s : State) (v : Bool) (d : Chan) : (State.mk s.lost v s.err s.result s.arg0 s.arg1 s.staging s.chans s.lineEn s.rd s.mem s.openRanges s.frontEnd s.agenda s.answers s.draws s.hostData).chan d = s.chan d := rfl
@[simp] theorem State.stage_with_fault (s : State) (v : Bool) (d : Chan) : (State.mk s.lost v s.err s.result s.arg0 s.arg1 s.staging s.chans s.lineEn s.rd s.mem s.openRanges s.frontEnd s.agenda s.answers s.draws s.hostData).stage d = s.stage d := rfl
@[simp] theorem State.chan_with_err (s : State) (v : ErrCode) (d : Chan) : (State.mk s.lost s.fault v s.result s.arg0 s.arg1 s.staging s.chans s.lineEn s.rd s.mem s.openRanges s.frontEnd s.agenda s.answers s.draws s.hostData).chan d = s.chan d := rfl
@[simp] theorem State.stage_with_err (s : State) (v : ErrCode) (d : Chan) : (State.mk s.lost s.fault v s.result s.arg0 s.arg1 s.staging s.chans s.lineEn s.rd s.mem s.openRanges s.frontEnd s.agenda s.answers s.draws s.hostData).stage d = s.stage d := rfl
@[simp] theorem State.chan_with_result (s : State) (v : Word) (d : Chan) : (State.mk s.lost s.fault s.err v s.arg0 s.arg1 s.staging s.chans s.lineEn s.rd s.mem s.openRanges s.frontEnd s.agenda s.answers s.draws s.hostData).chan d = s.chan d := rfl
@[simp] theorem State.stage_with_result (s : State) (v : Word) (d : Chan) : (State.mk s.lost s.fault s.err v s.arg0 s.arg1 s.staging s.chans s.lineEn s.rd s.mem s.openRanges s.frontEnd s.agenda s.answers s.draws s.hostData).stage d = s.stage d := rfl
@[simp] theorem State.chan_with_arg0 (s : State) (v : Word) (d : Chan) : (State.mk s.lost s.fault s.err s.result v s.arg1 s.staging s.chans s.lineEn s.rd s.mem s.openRanges s.frontEnd s.agenda s.answers s.draws s.hostData).chan d = s.chan d := rfl
@[simp] theorem State.stage_with_arg0 (s : State) (v : Word) (d : Chan) : (State.mk s.lost s.fault s.err s.result v s.arg1 s.staging s.chans s.lineEn s.rd s.mem s.openRanges s.frontEnd s.agenda s.answers s.draws s.hostData).stage d = s.stage d := rfl
@[simp] theorem State.chan_with_arg1 (s : State) (v : Word) (d : Chan) : (State.mk s.lost s.fault s.err s.result s.arg0 v s.staging s.chans s.lineEn s.rd s.mem s.openRanges s.frontEnd s.agenda s.answers s.draws s.hostData).chan d = s.chan d := rfl
@[simp] theorem State.stage_with_arg1 (s : State) (v : Word) (d : Chan) : (State.mk s.lost s.fault s.err s.result s.arg0 v s.staging s.chans s.lineEn s.rd s.mem s.openRanges s.frontEnd s.agenda s.answers s.draws s.hostData).stage d = s.stage d := rfl
@[simp] theorem State.chan_with_staging (s : State) (v : Vector Staging 3) (d : Chan) : (State.mk s.lost s.fault s.err s.result s.arg0 s.arg1 v s.chans s.lineEn s.rd s.mem s.openRanges s.frontEnd s.agenda s.answers s.draws s.hostData).chan d = s.chan d := rfl
@[simp] theorem State.stage_with_chans (s : State) (v : Vector Channel 3) (d : Chan) : (State.mk s.lost s.fault s.err s.result s.arg0 s.arg1 s.staging v s.lineEn s.rd s.mem s.openRanges s.frontEnd s.agenda s.answers s.draws s.hostData).stage d = s.stage d := rfl
@[simp] theorem State.chan_with_lineEn (s : State) (v : Bool) (d : Chan) : (State.mk s.lost s.fault s.err s.result s.arg0 s.arg1 s.staging s.chans v s.rd s.mem s.openRanges s.frontEnd s.agenda s.answers s.draws s.hostData).chan d = s.chan d := rfl
@[simp] theorem State.stage_with_lineEn (s : State) (v : Bool) (d : Chan) : (State.mk s.lost s.fault s.err s.result s.arg0 s.arg1 s.staging s.chans v s.rd s.mem s.openRanges s.frontEnd s.agenda s.answers s.draws s.hostData).stage d = s.stage d := rfl
@[simp] theorem State.chan_with_rd (s : State) (v : ReadEngine) (d : Chan) : (State.mk s.lost s.fault s.err s.result s.arg0 s.arg1 s.staging s.chans s.lineEn v s.mem s.openRanges s.frontEnd s.agenda s.answers s.draws s.hostData).chan d = s.chan d := rfl
@[simp] theorem State.stage_with_rd (s : State) (v : ReadEngine) (d : Chan) : (State.mk s.lost s.fault s.err s.result s.arg0 s.arg1 s.staging s.chans s.lineEn v s.mem s.openRanges s.frontEnd s.agenda s.answers s.draws s.hostData).stage d = s.stage d := rfl
@[simp] theorem State.chan_with_mem (s : State) (v : Memory) (d : Chan) : (State.mk s.lost s.fault s.err s.result s.arg0 s.arg1 s.staging s.chans s.lineEn s.rd v s.openRanges s.frontEnd s.agenda s.answers s.draws s.hostData).chan d = s.chan d := rfl
@[simp] theorem State.stage_with_mem (s : State) (v : Memory) (d : Chan) : (State.mk s.lost s.fault s.err s.result s.arg0 s.arg1 s.staging s.chans s.lineEn s.rd v s.openRanges s.frontEnd s.agenda s.answers s.draws s.hostData).stage d = s.stage d := rfl
@[simp] theorem State.chan_with_openRanges (s : State) (v : List OpenRange) (d : Chan) : (State.mk s.lost s.fault s.err s.result s.arg0 s.arg1 s.staging s.chans s.lineEn s.rd s.mem v s.frontEnd s.agenda s.answers s.draws s.hostData).chan d = s.chan d := rfl
@[simp] theorem State.stage_with_openRanges (s : State) (v : List OpenRange) (d : Chan) : (State.mk s.lost s.fault s.err s.result s.arg0 s.arg1 s.staging s.chans s.lineEn s.rd s.mem v s.frontEnd s.agenda s.answers s.draws s.hostData).stage d = s.stage d := rfl
@[simp] theorem State.chan_with_frontEnd (s : State) (v : Vector (Option FrontEnd) 3) (d : Chan) : (State.mk s.lost s.fault s.err s.result s.arg0 s.arg1 s.staging s.chans s.lineEn s.rd s.mem s.openRanges v s.agenda s.answers s.draws s.hostData).chan d = s.chan d := rfl
@[simp] theorem State.stage_with_frontEnd (s : State) (v : Vector (Option FrontEnd) 3) (d : Chan) : (State.mk s.lost s.fault s.err s.result s.arg0 s.arg1 s.staging s.chans s.lineEn s.rd s.mem s.openRanges v s.agenda s.answers s.draws s.hostData).stage d = s.stage d := rfl
@[simp] theorem State.chan_with_agenda (s : State) (v : List Event) (d : Chan) : (State.mk s.lost s.fault s.err s.result s.arg0 s.arg1 s.staging s.chans s.lineEn s.rd s.mem s.openRanges s.frontEnd v s.answers s.draws s.hostData).chan d = s.chan d := rfl
@[simp] theorem State.stage_with_agenda (s : State) (v : List Event) (d : Chan) : (State.mk s.lost s.fault s.err s.result s.arg0 s.arg1 s.staging s.chans s.lineEn s.rd s.mem s.openRanges s.frontEnd v s.answers s.draws s.hostData).stage d = s.stage d := rfl
@[simp] theorem State.chan_with_answers (s : State) (v : List Bool) (d : Chan) : (State.mk s.lost s.fault s.err s.result s.arg0 s.arg1 s.staging s.chans s.lineEn s.rd s.mem s.openRanges s.frontEnd s.agenda v s.draws s.hostData).chan d = s.chan d := rfl
@[simp] theorem State.stage_with_answers (s : State) (v : List Bool) (d : Chan) : (State.mk s.lost s.fault s.err s.result s.arg0 s.arg1 s.staging s.chans s.lineEn s.rd s.mem s.openRanges s.frontEnd s.agenda v s.draws s.hostData).stage d = s.stage d := rfl
@[simp] theorem State.chan_with_draws (s : State) (v : Nat) (d : Chan) : (State.mk s.lost s.fault s.err s.result s.arg0 s.arg1 s.staging s.chans s.lineEn s.rd s.mem s.openRanges s.frontEnd s.agenda s.answers v s.hostData).chan d = s.chan d := rfl
@[simp] theorem State.stage_with_draws (s : State) (v : Nat) (d : Chan) : (State.mk s.lost s.fault s.err s.result s.arg0 s.arg1 s.staging s.chans s.lineEn s.rd s.mem s.openRanges s.frontEnd s.agenda s.answers v s.hostData).stage d = s.stage d := rfl
@[simp] theorem State.chan_with_hostData (s : State) (v : Word) (d : Chan) : (State.mk s.lost s.fault s.err s.result s.arg0 s.arg1 s.staging s.chans s.lineEn s.rd s.mem s.openRanges s.frontEnd s.agenda s.answers s.draws v).chan d = s.chan d := rfl
@[simp] theorem State.stage_with_hostData (s : State) (v : Word) (d : Chan) : (State.mk s.lost s.fault s.err s.result s.arg0 s.arg1 s.staging s.chans s.lineEn s.rd s.mem s.openRanges s.frontEnd s.agenda s.answers s.draws v).stage d = s.stage d := rfl

/-! ## Fields after `Channel.halt` -/

@[simp] theorem Channel.halt_lstate (x : Channel) : (x.halt).lstate = x.lstate := rfl
@[simp] theorem Channel.halt_w (x : Channel) : (x.halt).w = x.w := rfl
@[simp] theorem Channel.halt_r (x : Channel) : (x.halt).r = x.r := rfl
@[simp] theorem Channel.halt_cfg (x : Channel) : (x.halt).cfg = x.cfg := rfl
@[simp] theorem Channel.halt_rawSize (x : Channel) : (x.halt).rawSize = x.rawSize := rfl
@[simp] theorem Channel.halt_clkdiv (x : Channel) : (x.halt).clkdiv = x.clkdiv := rfl
@[simp] theorem Channel.halt_raw (x : Channel) : (x.halt).raw = x.raw := rfl
@[simp] theorem Channel.halt_holdsBuf (x : Channel) : (x.halt).holdsBuf = x.holdsBuf := rfl
@[simp] theorem Channel.halt_holdsDma (x : Channel) : (x.halt).holdsDma = x.holdsDma := rfl
@[simp] theorem Channel.halt_dmaArmed (x : Channel) : (x.halt).dmaArmed = false := rfl
@[simp] theorem Channel.halt_dmaProg (x : Channel) : (x.halt).dmaProg = x.dmaProg := rfl
@[simp] theorem Channel.halt_dmaPend (x : Channel) : (x.halt).dmaPend = false := rfl
@[simp] theorem Channel.halt_dmaIrqEn (x : Channel) : (x.halt).dmaIrqEn = false := rfl
@[simp] theorem Channel.halt_capEn (x : Channel) : (x.halt).capEn = false := rfl
@[simp] theorem Channel.halt_readyEn (x : Channel) : (x.halt).readyEn = x.readyEn := rfl
@[simp] theorem Channel.halt_pendCount (x : Channel) : (x.halt).pendCount = x.pendCount := rfl
@[simp] theorem Channel.halt_readyPend (x : Channel) : (x.halt).readyPend = x.readyPend := rfl
@[simp] theorem Channel.halt_ovr (x : Channel) : (x.halt).ovr = x.ovr := rfl
@[simp] theorem Channel.halt_fp (x : Channel) : (x.halt).fp = x.fp := rfl
@[simp] theorem Channel.halt_vol (x : Channel) : (x.halt).vol = x.vol := rfl
@[simp] theorem Channel.halt_frs (x : Channel) : (x.halt).frs = x.frs := rfl

/-! ## Fields after `Channel.rawWrite` -/

@[simp] theorem Channel.rawWrite_lstate (x : Channel) (b : BufIdx) (i : Nat) (v : Byte) : (x.rawWrite b i v).lstate = x.lstate := rfl
@[simp] theorem Channel.rawWrite_w (x : Channel) (b : BufIdx) (i : Nat) (v : Byte) : (x.rawWrite b i v).w = x.w := rfl
@[simp] theorem Channel.rawWrite_r (x : Channel) (b : BufIdx) (i : Nat) (v : Byte) : (x.rawWrite b i v).r = x.r := rfl
@[simp] theorem Channel.rawWrite_cfg (x : Channel) (b : BufIdx) (i : Nat) (v : Byte) : (x.rawWrite b i v).cfg = x.cfg := rfl
@[simp] theorem Channel.rawWrite_rawSize (x : Channel) (b : BufIdx) (i : Nat) (v : Byte) : (x.rawWrite b i v).rawSize = x.rawSize := rfl
@[simp] theorem Channel.rawWrite_clkdiv (x : Channel) (b : BufIdx) (i : Nat) (v : Byte) : (x.rawWrite b i v).clkdiv = x.clkdiv := rfl
@[simp] theorem Channel.rawWrite_holdsBuf (x : Channel) (b : BufIdx) (i : Nat) (v : Byte) : (x.rawWrite b i v).holdsBuf = x.holdsBuf := rfl
@[simp] theorem Channel.rawWrite_holdsDma (x : Channel) (b : BufIdx) (i : Nat) (v : Byte) : (x.rawWrite b i v).holdsDma = x.holdsDma := rfl
@[simp] theorem Channel.rawWrite_dmaArmed (x : Channel) (b : BufIdx) (i : Nat) (v : Byte) : (x.rawWrite b i v).dmaArmed = x.dmaArmed := rfl
@[simp] theorem Channel.rawWrite_dmaProg (x : Channel) (b : BufIdx) (i : Nat) (v : Byte) : (x.rawWrite b i v).dmaProg = x.dmaProg := rfl
@[simp] theorem Channel.rawWrite_dmaPend (x : Channel) (b : BufIdx) (i : Nat) (v : Byte) : (x.rawWrite b i v).dmaPend = x.dmaPend := rfl
@[simp] theorem Channel.rawWrite_dmaIrqEn (x : Channel) (b : BufIdx) (i : Nat) (v : Byte) : (x.rawWrite b i v).dmaIrqEn = x.dmaIrqEn := rfl
@[simp] theorem Channel.rawWrite_capEn (x : Channel) (b : BufIdx) (i : Nat) (v : Byte) : (x.rawWrite b i v).capEn = x.capEn := rfl
@[simp] theorem Channel.rawWrite_readyEn (x : Channel) (b : BufIdx) (i : Nat) (v : Byte) : (x.rawWrite b i v).readyEn = x.readyEn := rfl
@[simp] theorem Channel.rawWrite_pendCount (x : Channel) (b : BufIdx) (i : Nat) (v : Byte) : (x.rawWrite b i v).pendCount = x.pendCount := rfl
@[simp] theorem Channel.rawWrite_readyPend (x : Channel) (b : BufIdx) (i : Nat) (v : Byte) : (x.rawWrite b i v).readyPend = x.readyPend := rfl
@[simp] theorem Channel.rawWrite_ovr (x : Channel) (b : BufIdx) (i : Nat) (v : Byte) : (x.rawWrite b i v).ovr = x.ovr := rfl
@[simp] theorem Channel.rawWrite_fp (x : Channel) (b : BufIdx) (i : Nat) (v : Byte) : (x.rawWrite b i v).fp = x.fp := rfl
@[simp] theorem Channel.rawWrite_vol (x : Channel) (b : BufIdx) (i : Nat) (v : Byte) : (x.rawWrite b i v).vol = x.vol := rfl
@[simp] theorem Channel.rawWrite_frs (x : Channel) (b : BufIdx) (i : Nat) (v : Byte) : (x.rawWrite b i v).frs = x.frs := rfl

/-! ## Fields after `Channel.arm` -/

@[simp] theorem Channel.arm_lstate (x : Channel) : (x.arm).lstate = x.lstate := by unfold Channel.arm; split <;> simp_all
@[simp] theorem Channel.arm_w (x : Channel) : (x.arm).w = x.w := by unfold Channel.arm; split <;> simp_all
@[simp] theorem Channel.arm_r (x : Channel) : (x.arm).r = x.r := by unfold Channel.arm; split <;> simp_all
@[simp] theorem Channel.arm_cfg (x : Channel) : (x.arm).cfg = x.cfg := by unfold Channel.arm; split <;> simp_all
@[simp] theorem Channel.arm_rawSize (x : Channel) : (x.arm).rawSize = x.rawSize := by unfold Channel.arm; split <;> simp_all
@[simp] theorem Channel.arm_clkdiv (x : Channel) : (x.arm).clkdiv = x.clkdiv := by unfold Channel.arm; split <;> simp_all
@[simp] theorem Channel.arm_raw (x : Channel) : (x.arm).raw = x.raw := by unfold Channel.arm; split <;> simp_all
@[simp] theorem Channel.arm_holdsBuf (x : Channel) : (x.arm).holdsBuf = x.holdsBuf := by unfold Channel.arm; split <;> simp_all
@[simp] theorem Channel.arm_holdsDma (x : Channel) : (x.arm).holdsDma = x.holdsDma := by unfold Channel.arm; split <;> simp_all
@[simp] theorem Channel.arm_dmaArmed (x : Channel) : (x.arm).dmaArmed = !decide (x.rawSize = 0) := by unfold Channel.arm; split <;> simp_all
@[simp] theorem Channel.arm_dmaProg (x : Channel) : (x.arm).dmaProg = 0 := by unfold Channel.arm; split <;> simp_all
@[simp] theorem Channel.arm_dmaPend (x : Channel) : (x.arm).dmaPend = (decide (x.rawSize = 0) || x.dmaPend) := by unfold Channel.arm; split <;> simp_all
@[simp] theorem Channel.arm_dmaIrqEn (x : Channel) : (x.arm).dmaIrqEn = x.dmaIrqEn := by unfold Channel.arm; split <;> simp_all
@[simp] theorem Channel.arm_capEn (x : Channel) : (x.arm).capEn = x.capEn := by unfold Channel.arm; split <;> simp_all
@[simp] theorem Channel.arm_readyEn (x : Channel) : (x.arm).readyEn = x.readyEn := by unfold Channel.arm; split <;> simp_all
@[simp] theorem Channel.arm_pendCount (x : Channel) : (x.arm).pendCount = x.pendCount := by unfold Channel.arm; split <;> simp_all
@[simp] theorem Channel.arm_readyPend (x : Channel) : (x.arm).readyPend = x.readyPend := by unfold Channel.arm; split <;> simp_all
@[simp] theorem Channel.arm_ovr (x : Channel) : (x.arm).ovr = x.ovr := by unfold Channel.arm; split <;> simp_all
@[simp] theorem Channel.arm_fp (x : Channel) : (x.arm).fp = x.fp := by unfold Channel.arm; split <;> simp_all
@[simp] theorem Channel.arm_vol (x : Channel) : (x.arm).vol = x.vol := by unfold Channel.arm; split <;> simp_all
@[simp] theorem Channel.arm_frs (x : Channel) : (x.arm).frs = x.frs := by unfold Channel.arm; split <;> simp_all

/-! ## Fields after `Channel.clearIrqBits` -/

@[simp] theorem Channel.clearIrqBits_lstate (v : Word) (c : Chan) (x : Channel) : (x.clearIrqBits v c).lstate = x.lstate := rfl
@[simp] theorem Channel.clearIrqBits_w (v : Word) (c : Chan) (x : Channel) : (x.clearIrqBits v c).w = x.w := rfl
@[simp] theorem Channel.clearIrqBits_r (v : Word) (c : Chan) (x : Channel) : (x.clearIrqBits v c).r = x.r := rfl
@[simp] theorem Channel.clearIrqBits_cfg (v : Word) (c : Chan) (x : Channel) : (x.clearIrqBits v c).cfg = x.cfg := rfl
@[simp] theorem Channel.clearIrqBits_rawSize (v : Word) (c : Chan) (x : Channel) : (x.clearIrqBits v c).rawSize = x.rawSize := rfl
@[simp] theorem Channel.clearIrqBits_clkdiv (v : Word) (c : Chan) (x : Channel) : (x.clearIrqBits v c).clkdiv = x.clkdiv := rfl
@[simp] theorem Channel.clearIrqBits_raw (v : Word) (c : Chan) (x : Channel) : (x.clearIrqBits v c).raw = x.raw := rfl
@[simp] theorem Channel.clearIrqBits_holdsBuf (v : Word) (c : Chan) (x : Channel) : (x.clearIrqBits v c).holdsBuf = x.holdsBuf := rfl
@[simp] theorem Channel.clearIrqBits_holdsDma (v : Word) (c : Chan) (x : Channel) : (x.clearIrqBits v c).holdsDma = x.holdsDma := rfl
@[simp] theorem Channel.clearIrqBits_dmaArmed (v : Word) (c : Chan) (x : Channel) : (x.clearIrqBits v c).dmaArmed = x.dmaArmed := rfl
@[simp] theorem Channel.clearIrqBits_dmaProg (v : Word) (c : Chan) (x : Channel) : (x.clearIrqBits v c).dmaProg = x.dmaProg := rfl
@[simp] theorem Channel.clearIrqBits_dmaPend (v : Word) (c : Chan) (x : Channel) : (x.clearIrqBits v c).dmaPend = x.dmaPend := rfl
@[simp] theorem Channel.clearIrqBits_dmaIrqEn (v : Word) (c : Chan) (x : Channel) : (x.clearIrqBits v c).dmaIrqEn = x.dmaIrqEn := rfl
@[simp] theorem Channel.clearIrqBits_capEn (v : Word) (c : Chan) (x : Channel) : (x.clearIrqBits v c).capEn = x.capEn := rfl
@[simp] theorem Channel.clearIrqBits_readyEn (v : Word) (c : Chan) (x : Channel) : (x.clearIrqBits v c).readyEn = x.readyEn := rfl
@[simp] theorem Channel.clearIrqBits_pendCount (v : Word) (c : Chan) (x : Channel) : (x.clearIrqBits v c).pendCount = x.pendCount := rfl
@[simp] theorem Channel.clearIrqBits_readyPend (v : Word) (c : Chan) (x : Channel) : (x.clearIrqBits v c).readyPend = (x.readyPend && !v.getLsbD c.val) := rfl
@[simp] theorem Channel.clearIrqBits_ovr (v : Word) (c : Chan) (x : Channel) : (x.clearIrqBits v c).ovr = (x.ovr && !v.getLsbD (8 + c.val)) := rfl
@[simp] theorem Channel.clearIrqBits_fp (v : Word) (c : Chan) (x : Channel) : (x.clearIrqBits v c).fp = x.fp := rfl
@[simp] theorem Channel.clearIrqBits_vol (v : Word) (c : Chan) (x : Channel) : (x.clearIrqBits v c).vol = x.vol := rfl
@[simp] theorem Channel.clearIrqBits_frs (v : Word) (c : Chan) (x : Channel) : (x.clearIrqBits v c).frs = x.frs := rfl

/-! ## Fields after `Channel.swap` -/

@[simp] theorem Channel.swap_lstate (x : Channel) : (x.swap).lstate = x.lstate := by simp [Channel.swap]
@[simp] theorem Channel.swap_w (x : Channel) : (x.swap).w = x.w + 1 := by simp [Channel.swap]
@[simp] theorem Channel.swap_r (x : Channel) : (x.swap).r = x.w := by simp [Channel.swap]
@[simp] theorem Channel.swap_cfg (x : Channel) : (x.swap).cfg = x.cfg := by simp [Channel.swap]
@[simp] theorem Channel.swap_rawSize (x : Channel) : (x.swap).rawSize = x.rawSize := by simp [Channel.swap]
@[simp] theorem Channel.swap_clkdiv (x : Channel) : (x.swap).clkdiv = x.clkdiv := by simp [Channel.swap]
@[simp] theorem Channel.swap_raw (x : Channel) : (x.swap).raw = x.raw := by simp [Channel.swap]
@[simp] theorem Channel.swap_holdsBuf (x : Channel) : (x.swap).holdsBuf = x.holdsBuf := by simp [Channel.swap]
@[simp] theorem Channel.swap_holdsDma (x : Channel) : (x.swap).holdsDma = x.holdsDma := by simp [Channel.swap]
@[simp] theorem Channel.swap_dmaArmed (x : Channel) : (x.swap).dmaArmed = !decide (x.rawSize = 0) := by simp [Channel.swap]
@[simp] theorem Channel.swap_dmaProg (x : Channel) : (x.swap).dmaProg = 0 := by simp [Channel.swap]
@[simp] theorem Channel.swap_dmaPend (x : Channel) : (x.swap).dmaPend = decide (x.rawSize = 0) := by simp [Channel.swap]
@[simp] theorem Channel.swap_dmaIrqEn (x : Channel) : (x.swap).dmaIrqEn = x.dmaIrqEn := by simp [Channel.swap]
@[simp] theorem Channel.swap_capEn (x : Channel) : (x.swap).capEn = x.capEn := by simp [Channel.swap]
@[simp] theorem Channel.swap_readyEn (x : Channel) : (x.swap).readyEn = x.readyEn := by simp [Channel.swap]
@[simp] theorem Channel.swap_pendCount (x : Channel) : (x.swap).pendCount = x.pendCount := by simp [Channel.swap]
@[simp] theorem Channel.swap_readyPend (x : Channel) : (x.swap).readyPend = x.readyPend := by simp [Channel.swap]
@[simp] theorem Channel.swap_ovr (x : Channel) : (x.swap).ovr = x.ovr := by simp [Channel.swap]
@[simp] theorem Channel.swap_fp (x : Channel) : (x.swap).fp = x.fp := by simp [Channel.swap]
@[simp] theorem Channel.swap_vol (x : Channel) : (x.swap).vol = x.vol := by simp [Channel.swap]
@[simp] theorem Channel.swap_frs (x : Channel) : (x.swap).frs = x.frs := by simp [Channel.swap]

/-! ## Fields after `Channel.dmaByte` -/

@[simp] theorem Channel.dmaByte_lstate (x : Channel) (v : Byte) : (x.dmaByte v).lstate = x.lstate := by unfold Channel.dmaByte; split <;> simp_all
@[simp] theorem Channel.dmaByte_w (x : Channel) (v : Byte) : (x.dmaByte v).w = x.w := by unfold Channel.dmaByte; split <;> simp_all
@[simp] theorem Channel.dmaByte_r (x : Channel) (v : Byte) : (x.dmaByte v).r = x.r := by unfold Channel.dmaByte; split <;> simp_all
@[simp] theorem Channel.dmaByte_cfg (x : Channel) (v : Byte) : (x.dmaByte v).cfg = x.cfg := by unfold Channel.dmaByte; split <;> simp_all
@[simp] theorem Channel.dmaByte_rawSize (x : Channel) (v : Byte) : (x.dmaByte v).rawSize = x.rawSize := by unfold Channel.dmaByte; split <;> simp_all
@[simp] theorem Channel.dmaByte_clkdiv (x : Channel) (v : Byte) : (x.dmaByte v).clkdiv = x.clkdiv := by unfold Channel.dmaByte; split <;> simp_all
@[simp] theorem Channel.dmaByte_raw (x : Channel) (v : Byte) : (x.dmaByte v).raw = (x.rawWrite x.w x.dmaProg v).raw := by unfold Channel.dmaByte; split <;> simp_all
@[simp] theorem Channel.dmaByte_holdsBuf (x : Channel) (v : Byte) : (x.dmaByte v).holdsBuf = x.holdsBuf := by unfold Channel.dmaByte; split <;> simp_all
@[simp] theorem Channel.dmaByte_holdsDma (x : Channel) (v : Byte) : (x.dmaByte v).holdsDma = x.holdsDma := by unfold Channel.dmaByte; split <;> simp_all
@[simp] theorem Channel.dmaByte_dmaArmed (x : Channel) (v : Byte) : (x.dmaByte v).dmaArmed = (x.dmaArmed && !decide (x.dmaProg + 1 = x.rawSize)) := by unfold Channel.dmaByte; split <;> simp_all
@[simp] theorem Channel.dmaByte_dmaProg (x : Channel) (v : Byte) : (x.dmaByte v).dmaProg = x.dmaProg + 1 := by unfold Channel.dmaByte; split <;> simp_all
@[simp] theorem Channel.dmaByte_dmaPend (x : Channel) (v : Byte) : (x.dmaByte v).dmaPend = (x.dmaPend || decide (x.dmaProg + 1 = x.rawSize)) := by unfold Channel.dmaByte; split <;> simp_all
@[simp] theorem Channel.dmaByte_dmaIrqEn (x : Channel) (v : Byte) : (x.dmaByte v).dmaIrqEn = x.dmaIrqEn := by unfold Channel.dmaByte; split <;> simp_all
@[simp] theorem Channel.dmaByte_capEn (x : Channel) (v : Byte) : (x.dmaByte v).capEn = x.capEn := by unfold Channel.dmaByte; split <;> simp_all
@[simp] theorem Channel.dmaByte_readyEn (x : Channel) (v : Byte) : (x.dmaByte v).readyEn = x.readyEn := by unfold Channel.dmaByte; split <;> simp_all
@[simp] theorem Channel.dmaByte_pendCount (x : Channel) (v : Byte) : (x.dmaByte v).pendCount = x.pendCount := by unfold Channel.dmaByte; split <;> simp_all
@[simp] theorem Channel.dmaByte_readyPend (x : Channel) (v : Byte) : (x.dmaByte v).readyPend = x.readyPend := by unfold Channel.dmaByte; split <;> simp_all
@[simp] theorem Channel.dmaByte_ovr (x : Channel) (v : Byte) : (x.dmaByte v).ovr = x.ovr := by unfold Channel.dmaByte; split <;> simp_all
@[simp] theorem Channel.dmaByte_fp (x : Channel) (v : Byte) : (x.dmaByte v).fp = x.fp := by unfold Channel.dmaByte; split <;> simp_all
@[simp] theorem Channel.dmaByte_vol (x : Channel) (v : Byte) : (x.dmaByte v).vol = x.vol := by unfold Channel.dmaByte; split <;> simp_all
@[simp] theorem Channel.dmaByte_frs (x : Channel) (v : Byte) : (x.dmaByte v).frs = x.frs := by unfold Channel.dmaByte; split <;> simp_all

/-! ## Fields after `startedChannel` -/

@[simp] theorem startedChannel_lstate (x : Channel) : (startedChannel x).lstate = .active := by simp [startedChannel]
@[simp] theorem startedChannel_w (x : Channel) : (startedChannel x).w = 0 := by simp [startedChannel]
@[simp] theorem startedChannel_r (x : Channel) : (startedChannel x).r = 0 := by simp [startedChannel]
@[simp] theorem startedChannel_cfg (x : Channel) : (startedChannel x).cfg = x.cfg := by simp [startedChannel]
@[simp] theorem startedChannel_rawSize (x : Channel) : (startedChannel x).rawSize = x.rawSize := by simp [startedChannel]
@[simp] theorem startedChannel_clkdiv (x : Channel) : (startedChannel x).clkdiv = x.clkdiv := by simp [startedChannel]
@[simp] theorem startedChannel_raw (x : Channel) : (startedChannel x).raw = x.raw := by simp [startedChannel]
@[simp] theorem startedChannel_holdsBuf (x : Channel) : (startedChannel x).holdsBuf = x.holdsBuf := by simp [startedChannel]
@[simp] theorem startedChannel_holdsDma (x : Channel) : (startedChannel x).holdsDma = x.holdsDma := by simp [startedChannel]
@[simp] theorem startedChannel_dmaArmed (x : Channel) : (startedChannel x).dmaArmed = !decide (x.rawSize = 0) := by simp [startedChannel]
@[simp] theorem startedChannel_dmaProg (x : Channel) : (startedChannel x).dmaProg = 0 := by simp [startedChannel]
@[simp] theorem startedChannel_dmaPend (x : Channel) : (startedChannel x).dmaPend = decide (x.rawSize = 0) := by simp [startedChannel]
@[simp] theorem startedChannel_dmaIrqEn (x : Channel) : (startedChannel x).dmaIrqEn = true := by simp [startedChannel]
@[simp] theorem startedChannel_capEn (x : Channel) : (startedChannel x).capEn = true := by simp [startedChannel]
@[simp] theorem startedChannel_readyEn (x : Channel) : (startedChannel x).readyEn = x.readyEn := by simp [startedChannel]
@[simp] theorem startedChannel_pendCount (x : Channel) : (startedChannel x).pendCount = 0#32 := by simp [startedChannel]
@[simp] theorem startedChannel_readyPend (x : Channel) : (startedChannel x).readyPend = false := by simp [startedChannel]
@[simp] theorem startedChannel_ovr (x : Channel) : (startedChannel x).ovr = false := by simp [startedChannel]
@[simp] theorem startedChannel_fp (x : Channel) : (startedChannel x).fp = x.fp := by simp [startedChannel]
@[simp] theorem startedChannel_vol (x : Channel) : (startedChannel x).vol = x.vol := by simp [startedChannel]
@[simp] theorem startedChannel_frs (x : Channel) : (startedChannel x).frs = some (Config.filterInit x.fp) := by simp [startedChannel]

/-! ## Fields after `initialisedChannel` -/

@[simp] theorem initialisedChannel_lstate (cfg : ChanConfig) : (initialisedChannel cfg).lstate = .idle := rfl
@[simp] theorem initialisedChannel_w (cfg : ChanConfig) : (initialisedChannel cfg).w = 0 := rfl
@[simp] theorem initialisedChannel_r (cfg : ChanConfig) : (initialisedChannel cfg).r = 0 := rfl
@[simp] theorem initialisedChannel_cfg (cfg : ChanConfig) : (initialisedChannel cfg).cfg = cfg := rfl
@[simp] theorem initialisedChannel_rawSize (cfg : ChanConfig) : (initialisedChannel cfg).rawSize = rawSizeOf cfg.bufsz := rfl
@[simp] theorem initialisedChannel_clkdiv (cfg : ChanConfig) : (initialisedChannel cfg).clkdiv = divisorOf cfg := rfl
@[simp] theorem initialisedChannel_raw (cfg : ChanConfig) : (initialisedChannel cfg).raw = #v[some [], some []] := rfl
@[simp] theorem initialisedChannel_holdsBuf (cfg : ChanConfig) : (initialisedChannel cfg).holdsBuf = #v[true, true] := rfl
@[simp] theorem initialisedChannel_holdsDma (cfg : ChanConfig) : (initialisedChannel cfg).holdsDma = true := rfl
@[simp] theorem initialisedChannel_dmaArmed (cfg : ChanConfig) : (initialisedChannel cfg).dmaArmed = false := rfl
@[simp] theorem initialisedChannel_dmaProg (cfg : ChanConfig) : (initialisedChannel cfg).dmaProg = 0 := rfl
@[simp] theorem initialisedChannel_dmaPend (cfg : ChanConfig) : (initialisedChannel cfg).dmaPend = false := rfl
@[simp] theorem initialisedChannel_dmaIrqEn (cfg : ChanConfig) : (initialisedChannel cfg).dmaIrqEn = false := rfl
@[simp] theorem initialisedChannel_capEn (cfg : ChanConfig) : (initialisedChannel cfg).capEn = false := rfl
@[simp] theorem initialisedChannel_readyEn (cfg : ChanConfig) : (initialisedChannel cfg).readyEn = false := rfl
@[simp] theorem initialisedChannel_pendCount (cfg : ChanConfig) : (initialisedChannel cfg).pendCount = 0#32 := rfl
@[simp] theorem initialisedChannel_readyPend (cfg : ChanConfig) : (initialisedChannel cfg).readyPend = false := rfl
@[simp] theorem initialisedChannel_ovr (cfg : ChanConfig) : (initialisedChannel cfg).ovr = false := rfl
@[simp] theorem initialisedChannel_fp (cfg : ChanConfig) : (initialisedChannel cfg).fp = defaultFilterParams cfg.rate := rfl
@[simp] theorem initialisedChannel_vol (cfg : ChanConfig) : (initialisedChannel cfg).vol = Config.defVol := rfl
@[simp] theorem initialisedChannel_frs (cfg : ChanConfig) : (initialisedChannel cfg).frs = none := rfl

/-- `raw[c][b]` after a raw write (R12). -/
theorem Channel.rawWrite_raw (x : Channel) (b d : BufIdx) (i : Nat) (v : Byte) :
    (x.rawWrite b i v).raw[d] = if b = d then x.raw[b].map (fun m => Memory.write m i v) else x.raw[d] := by
  simp [Channel.rawWrite, Vector.getElem_set, Fin.ext_iff]

end Sys2Proof.Machine
end

