-- ==== Sys2Proof/Laws/Ops.lean ====
section
/-!
SUPPORT. What each shared operation can do, said once: acceptance and the channel check, the draws, INIT's
resources, the lifecycle operations, the setters, READ, and ACK. Provers cite these instead of unfolding.
-/

namespace Sys2Proof.Machine

/-! ## Acceptance (R302) and the channel check (R303) -/

theorem accept_faulted {s : State} (body : State → State) (h : s.fault = true) :
    accept body s = .fault .busFault := by
  simp [accept, h]

theorem accept_busy {s : State} (body : State → State) (hf : s.fault = false) (hb : s.rd.busy = true) :
    accept body s = .next { s with lost := true } := by
  simp [accept, hf, hb]

theorem accept_accepting {s : State} (body : State → State) (h : s.accepting) :
    accept body s = .next (body { s with lost := false }) := by
  simp [accept, h.1, h.2]

/-- Everything a CMD write that answers a next state can have done. -/
theorem accept_next {s t : State} {body : State → State} (h : accept body s = .next t) :
    (s.fault = false ∧ s.rd.busy = true ∧ t = { s with lost := true }) ∨
      (s.accepting ∧ t = body { s with lost := false }) := by
  unfold accept at h
  split at h
  · cases h
  · rename_i hf
    split at h
    · rename_i hb
      injection h with h
      exact .inl ⟨by simpa using hf, hb, h.symm⟩
    · rename_i hb
      injection h with h
      exact .inr ⟨⟨by simpa using hf, by simpa using hb⟩, h.symm⟩

/-- A CMD write never refuses, and stops only after FAULT (R302, R306). -/
theorem accept_total (s : State) (body : State → State) :
    accept body s = .fault .busFault ∨ ∃ t, accept body s = .next t := by
  unfold accept
  split
  · exact .inl rfl
  · split <;> exact .inr ⟨_, rfl⟩

theorem chanOf_three : chanOf 3#2 = none := rfl

theorem chanOf_eq_none_iff (ch : BitVec 2) : chanOf ch = none ↔ ch = 3#2 := by
  revert ch; decide

theorem chanOf_ofNat (c : Chan) : chanOf (BitVec.ofNat 2 c.val) = some c := by
  revert c; decide

theorem chanOf_eq_some_iff (ch : BitVec 2) (c : Chan) : chanOf ch = some c ↔ ch.toNat = c.val := by
  revert ch c; decide

theorem onChannel_some {ch : BitVec 2} {c : Chan} (h : chanOf ch = some c) (body : Chan → State → State)
    (s : State) : onChannel ch body s = body c s := by
  simp [onChannel, h]

theorem onChannel_none {ch : BitVec 2} (h : chanOf ch = none) (body : Chan → State → State) (s : State) :
    onChannel ch body s = raise .invalidChannel s := by
  simp [onChannel, h]

theorem command_accepting {s : State} {ch : BitVec 2} {c : Chan} (h : s.accepting) (hc : chanOf ch = some c)
    (body : Chan → State → State) : command ch body s = .next (body c { s with lost := false }) := by
  rw [command, accept_accepting _ h, onChannel_some hc]

/-- Everything a command that answers a next state can have done. -/
theorem command_next {s t : State} {ch : BitVec 2} {body : Chan → State → State}
    (h : command ch body s = .next t) :
    (s.fault = false ∧ s.rd.busy = true ∧ t = { s with lost := true }) ∨
      (s.accepting ∧ ch = 3#2 ∧ t = reportOnly .invalidChannel s) ∨
      (s.accepting ∧ ∃ c, chanOf ch = some c ∧ t = body c { s with lost := false }) := by
  rcases accept_next h with h | ⟨ha, ht⟩
  · exact .inl h
  · cases hc : chanOf ch with
    | none => exact .inr (.inl ⟨ha, (chanOf_eq_none_iff ch).1 hc, by rw [ht, onChannel_none hc]; rfl⟩)
    | some c => exact .inr (.inr ⟨ha, c, rfl, by rw [ht, onChannel_some hc]⟩)

/-- The rule of each command, after the common checks. -/
def ruleOf : Instr → Chan → State → State
  | .init _ => initChannel
  | .deinit _ => deinitChannel
  | .start _ => startChannel
  | .stop _ => stopChannel Config.stopAsymmetric
  | .setrdy _ en => setter (fun x => { x with readyEn := en })
  | .setmaxv _ imm => setter (fun x => { x with fp := { x.fp with maxv := imm } })
  | .setgain _ imm => setter (fun x => { x with fp := { x.fp with gain := imm } })
  | .setvol _ imm => setter (fun x => { x with vol := imm })
  | .read _ => readChannel
  | .ack _ => ackChannel

/-- Every command is a CMD write: acceptance, the channel check, then its rule (R302, R303). -/
theorem exec_eq_command (i : Instr) (s : State) : exec i s = command i.ch (ruleOf i) s := by
  cases i <;> rfl

/-! ## Draws (R141) -/

/-- A draw touches the model's own lists only. -/
theorem drawAnswer_spec (o : Bool) (s : State) :
    ∃ answers draws, (drawAnswer o s).2 = { s with answers := answers, draws := draws } := by
  unfold drawAnswer
  split
  · exact ⟨_, _, rfl⟩
  · exact ⟨_, _, rfl⟩

/-- A listed answer is the answer. -/
theorem drawAnswer_listed (o b : Bool) (rest : List Bool) (s : State) (h : s.answers = b :: rest) :
    drawAnswer o s = (b, { s with answers := rest }) := by
  simp [drawAnswer, h]

/-- Where no answer is listed, the oracle is asked. -/
theorem drawAnswer_free (o : Bool) (s : State) (h : s.answers = []) :
    drawAnswer o s = (o, { s with draws := s.draws + 1 }) := by
  simp [drawAnswer, h]

/-- The four ends INIT's acquisition has (R140, R141): after any of them only the model's own lists differ, and on
success the channel, the front end and the result. -/
theorem acquire_cases (c : Chan) (cfg : ChanConfig) (s : State) :
    ∃ answers draws,
      acquire c cfg s = raise .allocationError { s with answers := answers, draws := draws } ∨
        acquire c cfg s = raise .resourceExhausted { s with answers := answers, draws := draws } ∨
        acquire c cfg s = finish (programCapture c cfg
          (({ s with answers := answers, draws := draws } : State).setChan c (initialisedChannel cfg))) := by
  unfold acquire
  obtain ⟨a0, d0, h0⟩ := drawAnswer_spec (Config.allocOracle s.draws c 0 (rawSizeOf cfg.bufsz)) s
  simp only [drawAlloc, drawDma, h0]
  split
  · exact ⟨_, _, .inl rfl⟩
  · obtain ⟨a1, d1, h1⟩ := drawAnswer_spec
      (Config.allocOracle d0 c 1 (rawSizeOf cfg.bufsz)) { s with answers := a0, draws := d0 }
    simp only [h1]
    split
    · exact ⟨_, _, .inl rfl⟩
    · obtain ⟨a2, d2, h2⟩ := drawAnswer_spec
        (Config.dmaClaimOracle d1 c) { s with answers := a1, draws := d1 }
      simp only [h2]
      split
      · exact ⟨_, _, .inr (.inl rfl)⟩
      · exact ⟨_, _, .inr (.inr rfl)⟩

/-! ## Lifecycle (R140 to R149) -/

/-- Everything INIT can do (R140). -/
theorem initChannel_cases (c : Chan) (s : State) :
    ((s.chan c).lstate ≠ .uninit ∧ initChannel c s = raise .badState s) ∨
      ((s.chan c).lstate = .uninit ∧ (stagedConfig (s.stage c)).valid = false ∧
        initChannel c s = raise .configError s) ∨
      ((s.chan c).lstate = .uninit ∧ (stagedConfig (s.stage c)).valid = true ∧
        initChannel c s = acquire c (stagedConfig (s.stage c)) s) := by
  unfold initChannel
  by_cases h : (s.chan c).lstate = .uninit
  · by_cases hv : (stagedConfig (s.stage c)).valid = true
    · exact .inr (.inr ⟨h, hv, by simp [h, hv]⟩)
    · exact .inr (.inl ⟨h, by simpa using hv, by simp [h, hv]⟩)
  · exact .inl ⟨h, by simp [h]⟩

theorem Channel.halt_halt (x : Channel) : x.halt.halt = x.halt := rfl

theorem State.setChan_setChan (s : State) (c : Chan) (x y : Channel) :
    (s.setChan c x).setChan c y = s.setChan c y := by
  simp [State.setChan]

/-- Whether another channel uses the line does not depend on channel `c` (R144, R148). -/
theorem othersIrq_congr {s t : State} (c : Chan) (h : otherChannels c s t) : othersIrq c t = othersIrq c s := by
  have key : ∀ d : Chan, (c != d && (t.chan d).dmaIrqEn) = (c != d && (s.chan d).dmaIrqEn) := fun d => by
    by_cases hd : d = c
    · simp [hd]
    · rw [h d hd]
  simp only [othersIrq, key]

theorem otherChannels_setChan (c : Chan) (s : State) (x : Channel) : otherChannels c s (s.setChan c x) :=
  fun _ hd => State.chan_setChan_ne s x hd

/-- Stopping twice is stopping once (R145). -/
theorem stopSymmetric_stopSymmetric (c : Chan) (s : State) :
    stopSymmetric c (stopSymmetric c s) = stopSymmetric c s := by
  have h : othersIrq c (stopSymmetric c s) = othersIrq c s :=
    othersIrq_congr c (fun d hd => State.chan_setChan_ne s _ hd)
  have hchan : (stopSymmetric c s).chan c = (s.chan c).halt := State.chan_setChan_self s c _
  have unfolded : ∀ t : State, stopSymmetric c t =
      { t.setChan c (t.chan c).halt with lineEn := t.lineEn && othersIrq c t } := fun _ => rfl
  rw [unfolded (stopSymmetric c s), hchan, h, Channel.halt_halt]
  simp [stopSymmetric, State.modChan, State.setChan]

/-- DEINIT of a channel that is not UNINIT (R144, R145): the line, the channel, the result. -/
theorem deinitChannel_held {c : Chan} {s : State} (h : (s.chan c).lstate ≠ .uninit) :
    deinitChannel c s = finish { s.setChan c Channel.reset with lineEn := s.lineEn && othersIrq c s } := by
  have hs : stopSymmetric c (if (s.chan c).lstate = .active then stopSymmetric c s else s) = stopSymmetric c s := by
    split
    · exact stopSymmetric_stopSymmetric c s
    · rfl
  simp only [deinitChannel, h, if_false, hs]
  simp [stopSymmetric, State.modChan, State.setChan]

theorem deinitChannel_uninit {c : Chan} {s : State} (h : (s.chan c).lstate = .uninit) :
    deinitChannel c s = finish s := by
  simp [deinitChannel, h]

theorem startChannel_idle {c : Chan} {s : State} (h : (s.chan c).lstate = .idle) :
    startChannel c s = finish { s.modChan c startedChannel with lineEn := true } := by
  simp [startChannel, h]

theorem startChannel_refused {c : Chan} {s : State} (h : (s.chan c).lstate ≠ .idle) :
    startChannel c s = raise .badState s := by
  simp [startChannel, h]

theorem stopChannel_uninit (asym : Bool) {c : Chan} {s : State} (h : (s.chan c).lstate = .uninit) :
    stopChannel asym c s = raise .badState s := by
  simp [stopChannel, h]

theorem stopChannel_idle (asym : Bool) {c : Chan} {s : State} (h : (s.chan c).lstate = .idle) :
    stopChannel asym c s = finish s := by
  simp [stopChannel, h]

/-- The symmetric STOP of an ACTIVE channel (R148). -/
theorem stopChannel_active {c : Chan} {s : State} (h : (s.chan c).lstate = .active) :
    stopChannel false c s =
      finish { s.modChan c (fun x => { x.halt with lstate := .idle }) with
        lineEn := s.lineEn && othersIrq c s } := by
  have hchan : (stopSymmetric c s).chan c = (s.chan c).halt := State.chan_setChan_self s c _
  simp only [stopChannel, h, State.modChan, Bool.false_eq_true, if_false, hchan]
  simp [stopSymmetric, State.modChan, State.setChan]

/-! ## Raw buffers (R12, R250) -/

/-- A raw byte after a byte is written into a buffer that exists. -/
theorem Channel.rawByte?_rawWrite (x : Channel) (b d : BufIdx) (i j : Nat) (v : Byte)
    (h : (x.raw[b]).isSome = true) :
    (x.rawWrite b i v).rawByte? d j = if d = b ∧ j = i then some v else x.rawByte? d j := by
  obtain ⟨m, hm⟩ := Option.isSome_iff_exists.1 h
  simp only [Channel.rawByte?, Channel.rawWrite_raw]
  by_cases hd : d = b
  · subst hd
    simp only [hm, if_true, true_and, Option.map_some, Option.bind_some, Memory.read_write]
    simp only [eq_comm]
  · rw [if_neg (Ne.symm hd)]
    simp [hd]

/-! ## Setters, ACK and READ -/

theorem whenInit_uninit {c : Chan} {s : State} (body : State → State) (h : (s.chan c).lstate = .uninit) :
    whenInit c body s = raise .badState s := by
  simp [whenInit, h]

theorem whenInit_held {c : Chan} {s : State} (body : State → State) (h : (s.chan c).lstate ≠ .uninit) :
    whenInit c body s = body s := by
  simp [whenInit, h]

/-- Everything a setter can do (R180 to R183). -/
theorem setter_cases (f : Channel → Channel) (c : Chan) (s : State) :
    ((s.chan c).lstate = .uninit ∧ setter f c s = raise .badState s) ∨
      ((s.chan c).lstate ≠ .uninit ∧ setter f c s = finish (s.modChan c f)) := by
  by_cases h : (s.chan c).lstate = .uninit
  · exact .inl ⟨h, whenInit_uninit _ h⟩
  · exact .inr ⟨h, whenInit_held _ h⟩

/-- Everything ACK can do (R230). -/
theorem ackChannel_cases (c : Chan) (s : State) :
    ((s.chan c).lstate = .uninit ∧ ackChannel c s = raise .badState s) ∨
      ((s.chan c).lstate ≠ .uninit ∧ ackChannel c s =
        report .ok (s.chan c).pendCount (s.modChan c (fun x => { x with pendCount := 0#32 }))) := by
  by_cases h : (s.chan c).lstate = .uninit
  · exact .inl ⟨h, whenInit_uninit _ h⟩
  · exact .inr ⟨h, whenInit_held _ h⟩

/-- What a READ that passes its checks and finds a published buffer leaves (R202). -/
def consumeBuffer (c : Chan) (s : State) : State := finish (s.modChan c (fun x => { x with r := x.r + 1 }))

/-- Everything READ can do (R202), in the order of R205 (f). -/
theorem readChannel_cases (c : Chan) (s : State) :
    ((s.chan c).lstate = .uninit ∧ readChannel c s = raise .badState s) ∨
      ((s.chan c).lstate ≠ .uninit ∧
        ((s.arg0.getLsbD 0 = true ∧ readChannel c s = raise .misaligned s) ∨
          (s.arg0.getLsbD 0 = false ∧
            ((2 ^ 32 < s.arg0.toNat + 2 * sampleCount (s.chan c).cfg s.arg1 ∧
                readChannel c s = raise .addressRange s) ∨
              (s.arg0.toNat + 2 * sampleCount (s.chan c).cfg s.arg1 ≤ 2 ^ 32 ∧
                (((s.chan c).r = (s.chan c).w ∧ readChannel c s = finish s) ∨
                  ((s.chan c).r ≠ (s.chan c).w ∧
                    ((sampleCount (s.chan c).cfg s.arg1 = 0 ∧ readChannel c s = consumeBuffer c s) ∨
                      (sampleCount (s.chan c).cfg s.arg1 ≠ 0 ∧ readChannel c s =
                        { consumeBuffer c s with
                          rd := { busy := true, ch := c, buf := (s.chan c).r, addr := s.arg0,
                                  n := sampleCount (s.chan c).cfg s.arg1, k := 0 } }))))))))) := by
  by_cases hu : (s.chan c).lstate = .uninit
  · exact .inl ⟨hu, whenInit_uninit _ hu⟩
  refine .inr ⟨hu, ?_⟩
  rw [readChannel, whenInit_held _ hu]
  simp only [beginRead]
  by_cases h0 : s.arg0.getLsbD 0 = true
  · exact .inl ⟨h0, by rw [if_pos h0]⟩
  refine .inr ⟨by simpa using h0, ?_⟩
  rw [if_neg h0]
  by_cases h1 : 2 ^ 32 < s.arg0.toNat + 2 * sampleCount (s.chan c).cfg s.arg1
  · exact .inl ⟨h1, by rw [if_pos h1]⟩
  refine .inr ⟨by omega, ?_⟩
  rw [if_neg h1]
  by_cases h2 : (s.chan c).r = (s.chan c).w
  · exact .inl ⟨h2, by rw [if_pos h2]⟩
  refine .inr ⟨h2, ?_⟩
  rw [if_neg h2]
  by_cases h3 : sampleCount (s.chan c).cfg s.arg1 = 0
  · exact .inl ⟨h3, by rw [if_pos h3]; rfl⟩
  · exact .inr ⟨h3, by rw [if_neg h3]; rfl⟩

/-! ## The PDM front end's packing (R257) -/

/-- The byte's bits are the PDM bits, each once, whatever the order. -/
theorem layPdmBits_perm (place : Nat → Nat) (bits : List Bool) : (layPdmBits place bits).Perm bits := by
  induction bits with
  | nil => exact .refl _
  | cons b later ih =>
    have hl := ih.length_eq
    refine (List.perm_insertIdx b _ ?_).trans (ih.cons b)
    have := Nat.mod_lt (place later.length) (show 0 < later.length + 1 by omega)
    omega

theorem layPdmBits_length (place : Nat → Nat) (bits : List Bool) : (layPdmBits place bits).length = bits.length :=
  (layPdmBits_perm place bits).length_eq

theorem bitsValue_testBit (bits : List Bool) (i : Nat) : (bitsValue bits).testBit i = bits.getD i false := by
  induction bits generalizing i with
  | nil => simp [bitsValue]
  | cons b rest ih =>
    cases i with
    | zero => cases b <;> simp [bitsValue, Nat.testBit_zero]
    | succ i =>
      have h : (b.toNat + 2 * bitsValue rest) / 2 = bitsValue rest := by have := Bool.toNat_le b; omega
      rw [bitsValue, Nat.testBit_succ, h, ih]
      rfl

/-- R257: bit PDM_BIT_ORDER of the raw byte is the earliest of its eight PDM bits. -/
theorem packPdm_earliest (order : PdmBitOrder) (later : Nat → Nat) (b : Bool) (bits : List Bool)
    (h : bits.length = 7) : (packPdm order later (b :: bits)).getLsbD order.val = b := by
  have hm : order.val % 8 = order.val := Nat.mod_eq_of_lt order.isLt
  have hle : order.val ≤ (layPdmBits (fun n => if n = 7 then order.val else later n) bits).length := by
    rw [layPdmBits_length]; omega
  rw [packPdm, BitVec.getLsbD_ofNat, bitsValue_testBit]
  simp [layPdmBits, h, hm, List.getElem?_insertIdx_self, hle]

end Sys2Proof.Machine
end

