-- ==== Sys2Proof/Laws/Moves.lean ====
section
/-!
SUPPORT. What the agents' moves can do, said once: the DMA byte step, the completion handler, the chunk step, the
host's accesses, reset, and the step itself.
-/

namespace Sys2Proof.Machine

/-! ## Capture and completion (R250, R251) -/

/-- Everything a DMA move can do (R250). -/
theorem dmaStep_cases (c : Chan) (v : Byte) (s : State) :
    ((s.chan c).capturing = false ∧ dmaStep c v s = s) ∨
      ((s.chan c).capturing = true ∧ dmaStep c v s = s.setChan c ((s.chan c).dmaByte v)) := by
  cases h : (s.chan c).capturing
  · exact .inl ⟨rfl, by simp [dmaStep, h]⟩
  · exact .inr ⟨rfl, by simp [dmaStep, h, State.modChan]⟩

/-- A channel is 0, 1 or 2 (R7). -/
theorem chan_cases (c : Chan) : c = 0 ∨ c = 1 ∨ c = 2 := by
  revert c; decide

theorem dueChannel_some {s : State} {c : Chan} (h : dueChannel s = some c) :
    (s.chan c).completionDue = true ∧ ∀ d, d < c → (s.chan d).completionDue = false := by
  unfold dueChannel at h
  split at h
  · injection h with h; subst h; exact ⟨by assumption, fun d hd => absurd hd (Nat.not_lt_zero _)⟩
  · rename_i h0
    split at h
    · injection h with h; subst h
      refine ⟨by assumption, fun d hd => ?_⟩
      rcases chan_cases d with rfl | rfl | rfl
      · simpa using h0
      · exact absurd hd (by decide)
      · exact absurd hd (by decide)
    · rename_i h1
      split at h
      · injection h with h; subst h
        refine ⟨by assumption, fun d hd => ?_⟩
        rcases chan_cases d with rfl | rfl | rfl
        · simpa using h0
        · simpa using h1
        · exact absurd hd (by decide)
      · cases h

theorem dueChannel_none {s : State} : dueChannel s = none ↔ ∀ d, (s.chan d).completionDue = false := by
  constructor
  · intro h d
    unfold dueChannel at h
    split at h
    · cases h
    · split at h
      · cases h
      · split at h
        · cases h
        · fin_cases d <;> simp_all
  · intro h
    simp [dueChannel, h]

/-- Everything a handler move can do (R251). -/
theorem handlerStep_cases (s : State) :
    ((s.lineEn = false ∨ dueChannel s = none) ∧ handlerStep s = s) ∨
      (s.lineEn = true ∧ ∃ c, dueChannel s = some c ∧ handlerStep s = serviceCompletion c s) := by
  unfold handlerStep
  cases hl : s.lineEn
  · exact .inl ⟨.inl rfl, rfl⟩
  · cases hd : dueChannel s with
    | none => exact .inl ⟨.inr rfl, rfl⟩
    | some c => exact .inr ⟨rfl, c, rfl, rfl⟩

theorem serviceCompletion_chan (c : Chan) (s : State) :
    (serviceCompletion c s).chan c =
      { (s.chan c).swap with
        ovr := (s.chan c).ovr || overrun c s
        pendCount := (s.chan c).pendCount + 1#32
        readyPend := (s.chan c).readyPend || (s.chan c).readyEn } := by
  simp [serviceCompletion]

/-! ## The read engine (R203) -/

@[simp] theorem filterPcm_length (n : Nat) (bytes : List Byte) (vol : Half) (p : FilterParams) (st : FState) :
    (filterPcm n bytes vol p st).length = n := by
  simp [filterPcm]

@[simp] theorem chunkPcm_length (s : State) : (chunkPcm s).length = (s.chan s.rd.ch).stride := by
  simp [chunkPcm]

@[simp] theorem rawRead_length (c : Chan) (x : Channel) (b : BufIdx) (off n : Nat) :
    (rawRead c x b off n).length = n := by
  simp [rawRead]

/-- An admitted chunk with samples lies in the 32-bit address space (R90; log 7). -/
theorem chunkAdmitted_inRange {writable : Nat → Nat → Bool} {s : State} (h : chunkAdmitted writable s = true)
    (hs : (s.chan s.rd.ch).stride ≠ 0) : chunkBase s + 2 * (s.chan s.rd.ch).stride ≤ 2 ^ 32 := by
  simp only [chunkAdmitted, List.all_eq_true, List.mem_range, admits, Bool.and_eq_true, decide_eq_true_eq] at h
  have := (h ((s.chan s.rd.ch).stride - 1) (by omega)).1
  omega

/-- Everything a chunk move can do (R203, R91). -/
theorem chunkStep_cases (writable : Nat → Nat → Bool) (s : State) :
    (s.rd.busy = false ∧ chunkStep writable s = s) ∨
      (s.rd.busy = true ∧ chunkAdmitted writable s = false ∧ chunkStep writable s = enterBusFault s) ∨
      (s.rd.busy = true ∧ chunkAdmitted writable s = true ∧ chunkStep writable s = performChunk s) := by
  unfold chunkStep
  cases hb : s.rd.busy
  · exact .inl ⟨rfl, rfl⟩
  · cases ha : chunkAdmitted writable s
    · exact .inr (.inl ⟨rfl, rfl, rfl⟩)
    · exact .inr (.inr ⟨rfl, rfl, rfl⟩)

/-- The fields a chunk writes (R203). -/
theorem performChunk_spec (s : State) :
    (performChunk s).mem = Memory.writeSamples s.mem (chunkBase s) (chunkPcm s) ∧
      (performChunk s).chan s.rd.ch = { s.chan s.rd.ch with frs := some (chunkFilterState s) } ∧
      (∀ d, d ≠ s.rd.ch → (performChunk s).chan d = s.chan d) ∧
      ((s.rd.k + 1) * (s.chan s.rd.ch).stride = s.rd.n →
        (performChunk s).rd = { s.rd with k := s.rd.k + 1, busy := false } ∧
          (performChunk s).result = BitVec.ofNat 32 s.rd.n ∧ (performChunk s).err = .ok) ∧
      ((s.rd.k + 1) * (s.chan s.rd.ch).stride ≠ s.rd.n →
        (performChunk s).rd = { s.rd with k := s.rd.k + 1 } ∧
          (performChunk s).result = s.result ∧ (performChunk s).err = s.err) := by
  unfold performChunk
  by_cases h : (s.rd.k + 1) * (s.chan s.rd.ch).stride = s.rd.n
  · rw [if_pos h]
    exact ⟨rfl, State.chan_setChan_self s _ _, fun d hd => State.chan_setChan_ne s _ hd,
      fun _ => ⟨rfl, rfl, rfl⟩, fun hne => absurd h hne⟩
  · rw [if_neg h]
    exact ⟨rfl, State.chan_setChan_self s _ _, fun d hd => State.chan_setChan_ne s _ hd,
      fun he => absurd he h, fun _ => ⟨rfl, rfl, rfl⟩⟩

/-- The fields a chunk leaves alone (R203). -/
theorem performChunk_frame (s : State) :
    (performChunk s).lost = s.lost ∧ (performChunk s).fault = s.fault ∧ (performChunk s).arg0 = s.arg0 ∧
      (performChunk s).arg1 = s.arg1 ∧ (performChunk s).staging = s.staging ∧
      (performChunk s).lineEn = s.lineEn ∧ (performChunk s).frontEnd = s.frontEnd ∧
      (performChunk s).agenda = s.agenda ∧ (performChunk s).answers = s.answers ∧
      (performChunk s).draws = s.draws ∧ (performChunk s).hostData = s.hostData := by
  unfold performChunk
  split <;> exact ⟨rfl, rfl, rfl, rfl, rfl, rfl, rfl, rfl, rfl, rfl, rfl⟩

/-- The bytes a chunk writes are settled (R95; log 10). -/
theorem performChunk_openRanges (s : State) :
    (performChunk s).openRanges =
      settle (chunkBase s) (chunkBase s + 2 * (s.chan s.rd.ch).stride) s.openRanges := by
  unfold performChunk
  split <;> rfl

/-! ## Host accesses (R84 to R86) -/

/-- Everything a host write that answers a next state can have done. -/
theorem hostWrite_next {off size : Nat} {v : Word} {s t : State} (h : hostWrite off size v s = .next t) :
    (regAt off size = .ok .cmd ∧ issue v s = .next t) ∨
      (∃ r, regAt off size = .ok r ∧ r ≠ .cmd ∧ t = storeReg s r v) := by
  unfold hostWrite at h
  split at h
  · cases h
  · exact .inl ⟨by assumption, h⟩
  · rename_i r hne hr
    injection h with h
    exact .inr ⟨r, hr, hne, h.symm⟩

/-- Everything a host read that answers a next state can have done. -/
theorem hostRead_next {off size : Nat} {s t : State} (h : hostRead off size s = .next t) :
    ∃ r, regAt off size = .ok r ∧ t = { s with hostData := readReg s r } := by
  unfold hostRead at h
  split at h
  · cases h
  · rename_i r hr
    injection h with h
    exact ⟨r, hr, h.symm⟩

/-- A CMD write is the command's own meaning, or ILLEGAL_COMMAND (R302, R303). -/
theorem issue_instr {w : Word} {i : Instr} (h : decode w = .instr i) (s : State) : issue w s = exec i s := by
  simp [issue, h]

theorem issue_illegal {w : Word} {e : DecodeError} (h : decode w = .illegal e) (s : State) :
    issue w s = accept (raise .illegalCommand) s := by
  simp [issue, h]

/-- What a stored register changes: never a channel's state but its IRQ_STAT bits, and nothing of the engine,
the line, the results or host memory. -/
theorem storeReg_frame (s : State) (r : Reg) (v : Word) :
    (storeReg s r v).lost = s.lost ∧ (storeReg s r v).fault = s.fault ∧ (storeReg s r v).err = s.err ∧
      (storeReg s r v).result = s.result ∧ (storeReg s r v).lineEn = s.lineEn ∧ (storeReg s r v).rd = s.rd ∧
      (storeReg s r v).mem = s.mem ∧ (storeReg s r v).openRanges = s.openRanges ∧
      (storeReg s r v).frontEnd = s.frontEnd ∧
      (storeReg s r v).agenda = s.agenda ∧ (storeReg s r v).answers = s.answers ∧
      (storeReg s r v).draws = s.draws ∧ (storeReg s r v).hostData = s.hostData := by
  cases r <;> exact ⟨rfl, rfl, rfl, rfl, rfl, rfl, rfl, rfl, rfl, rfl, rfl, rfl, rfl⟩

theorem clearIrqStat_chan (v : Word) (s : State) (c : Chan) :
    (clearIrqStat v s).chan c = (s.chan c).clearIrqBits v c := by
  unfold clearIrqStat
  rcases chan_cases c with rfl | rfl | rfl
  · rw [State.chan_modChan_ne _ _ (by decide), State.chan_modChan_ne _ _ (by decide), State.chan_modChan_self]
  · rw [State.chan_modChan_ne _ _ (by decide), State.chan_modChan_self, State.chan_modChan_ne _ _ (by decide)]
  · rw [State.chan_modChan_self, State.chan_modChan_ne _ _ (by decide), State.chan_modChan_ne _ _ (by decide)]

/-- A stored register leaves every channel as it was, but for IRQ_STAT's bits (R231). -/
theorem storeReg_chan (s : State) (r : Reg) (v : Word) (c : Chan) :
    (storeReg s r v).chan c = if r = .irqStat then (s.chan c).clearIrqBits v c else s.chan c := by
  cases r
  case irqStat => simpa [storeReg] using clearIrqStat_chan v s c
  all_goals rfl

/-! ## Host memory (R95, R208, R340) -/

/-- The bytes that are any value to the host, one by one. -/
theorem isOpen_anyValueRanges (s : State) (a : Nat) :
    isOpen (anyValueRanges s) a = true ↔
      (s.rd.busy = true ∧ s.rd.addr.toNat ≤ a ∧ a < s.rd.addr.toNat + 2 * s.rd.n) ∨ isOpen s.openRanges a = true := by
  cases h : s.rd.busy <;> simp [anyValueRanges, h, ReadEngine.range]

/-- Everything a host load can do. -/
theorem hostLoad_cases (a : Addr) (s : State) :
    (isOpen (anyValueRanges s) a.toNat = true ∧
        hostLoad a s = { s with hostData := 0#24 ++ Config.outputByte s.draws, draws := s.draws + 1 }) ∨
      (isOpen (anyValueRanges s) a.toNat = false ∧ hostLoad a s = { s with hostData := 0#24 ++ hostByte s a }) := by
  unfold hostLoad
  cases isOpen (anyValueRanges s) a.toNat
  · exact .inr ⟨rfl, rfl⟩
  · exact .inl ⟨rfl, rfl⟩

/-! ## The step -/

/-- The next move is the head of the agenda. -/
theorem step_of_agenda {s : State} {e : Event} {rest : List Event} (h : s.agenda = e :: rest) :
    step s = runEvent e { s with agenda := rest } := by
  simp [step, takeEvent, h]

/-- Whatever move comes next, taking it off the list changes the model's own fields only. -/
theorem takeEvent_spec (s : State) :
    ∃ agenda draws, (takeEvent s).2 = { s with agenda := agenda, draws := draws } := by
  unfold takeEvent
  split
  · exact ⟨_, _, rfl⟩
  · exact ⟨_, _, rfl⟩

/-- Everything a move that answers a next state can have done. -/
theorem runEvent_next {e : Event} {s t : State} (h : runEvent e s = .next t) :
    (e = .reset ∧ t = resetBlock s) ∨
      (s.fault = false ∧
        ((∃ off size v, e = .write off size v ∧ hostWrite off size v s = .next t) ∨
          (∃ off size, e = .read off size ∧ hostRead off size s = .next t) ∨
          (∃ c v, e = .dma c v ∧ t = dmaStep c v s) ∨
          (e = .irq ∧ t = handlerStep s) ∨
          (e = .chunk ∧ t = chunkStep Config.hostWritable s) ∨
          (∃ a v, e = .memStore a v ∧ t = hostStore a v s) ∨
          (∃ a, e = .memLoad a ∧ t = hostLoad a s))) := by
  cases e with
  | reset => injection h with h; exact .inl ⟨rfl, h.symm⟩
  | write off size v =>
    simp only [runEvent] at h
    split at h
    · cases h
    · exact .inr ⟨by simp_all, .inl ⟨off, size, v, rfl, h⟩⟩
  | read off size =>
    simp only [runEvent] at h
    split at h
    · cases h
    · exact .inr ⟨by simp_all, .inr (.inl ⟨off, size, rfl, h⟩)⟩
  | dma c v =>
    simp only [runEvent] at h
    split at h
    · cases h
    · injection h with h; exact .inr ⟨by simp_all, .inr (.inr (.inl ⟨c, v, rfl, h.symm⟩))⟩
  | irq =>
    simp only [runEvent] at h
    split at h
    · cases h
    · injection h with h; exact .inr ⟨by simp_all, .inr (.inr (.inr (.inl ⟨rfl, h.symm⟩)))⟩
  | chunk =>
    simp only [runEvent] at h
    split at h
    · cases h
    · injection h with h; exact .inr ⟨by simp_all, .inr (.inr (.inr (.inr (.inl ⟨rfl, h.symm⟩))))⟩
  | memStore a v =>
    simp only [runEvent] at h
    split at h
    · cases h
    · injection h with h
      exact .inr ⟨by simp_all, .inr (.inr (.inr (.inr (.inr (.inl ⟨a, v, rfl, h.symm⟩)))))⟩
  | memLoad a =>
    simp only [runEvent] at h
    split at h
    · cases h
    · injection h with h
      exact .inr ⟨by simp_all, .inr (.inr (.inr (.inr (.inr (.inr ⟨a, rfl, h.symm⟩)))))⟩

end Sys2Proof.Machine
end

