-- ==== Sys2Proof/Laws/PerInstr.lean ====
section
/-!
SUPPORT. The per-instruction family EncodeMatchesTable: each command's word has the fixed bits its row of
spec/opcode_table.json gives it (R112 to R121).
-/

namespace Sys2Proof

/-- The `mask` of a command's row in spec/opcode_table.json. -/
def tableMask : Instr → Word
  | .init _ => 0xFFFFFFCF#32
  | .deinit _ => 0xFFFFFFCF#32
  | .start _ => 0xFFFFFFCF#32
  | .stop _ => 0xFFFFFFCF#32
  | .setrdy _ _ => 0xFFFEFFCF#32
  | .setmaxv _ _ => 0x0000FFCF#32
  | .setgain _ _ => 0x0000FFCF#32
  | .setvol _ _ => 0x0000FFCF#32
  | .read _ => 0xFFFFFFCF#32
  | .ack _ => 0xFFFFFFCF#32

/-- The `match` of a command's row in spec/opcode_table.json. -/
def tableMatch : Instr → Word
  | .init _ => 0x00000001#32
  | .deinit _ => 0x00000002#32
  | .start _ => 0x00000003#32
  | .stop _ => 0x00000004#32
  | .setrdy _ _ => 0x00000005#32
  | .setmaxv _ _ => 0x00000006#32
  | .setgain _ _ => 0x00000007#32
  | .setvol _ _ => 0x00000008#32
  | .read _ => 0x00000009#32
  | .ack _ => 0x0000000A#32

/-- A command word's bits: OP, CH, then IMM16, and zero in RSV (R110). -/
theorem getLsbD_commandWord (op : BitVec 4) (ch : BitVec 2) (imm : Half) (j : Nat) :
    (commandWord op ch imm).getLsbD j =
      if j < 4 then op.getLsbD j else if j < 6 then ch.getLsbD (j - 4)
      else if j < 16 then false else imm.getLsbD (j - 16) := by
  unfold commandWord
  rw [BitVec.getLsbD_append, BitVec.getLsbD_append, BitVec.getLsbD_append, BitVec.getLsbD_zero]
  by_cases h4 : j < 4
  · simp [h4]
  · by_cases h6 : j < 6
    · simp [h4, h6, show j - 4 < 2 by omega]
    · by_cases h16 : j < 16
      · simp [h4, h6, h16, show ¬ j - 4 < 2 by omega, show j - 4 - 2 < 10 by omega]
      · simp [h4, h6, h16, show ¬ j - 4 < 2 by omega, show ¬ j - 4 - 2 < 10 by omega,
          show j - 4 - 2 - 10 = j - 16 by omega]

namespace Laws.EncodeMatchesTable

/-- The command's word has its row's fixed bits. -/
def Statement (i : Instr) : Prop := encode i &&& tableMask i = tableMatch i

theorem init (ch : BitVec 2) : Statement (.init ch) := by
  revert ch; unfold Statement; decide

theorem deinit (ch : BitVec 2) : Statement (.deinit ch) := by
  revert ch; unfold Statement; decide

theorem start (ch : BitVec 2) : Statement (.start ch) := by
  revert ch; unfold Statement; decide

theorem stop (ch : BitVec 2) : Statement (.stop ch) := by
  revert ch; unfold Statement; decide

theorem setrdy (ch : BitVec 2) (en : Bool) : Statement (.setrdy ch en) := by
  revert ch en; unfold Statement; decide

/-- The bits of a word with an immediate, under the mask of its row. -/
theorem masked_value_word (op : BitVec 4) (ch : BitVec 2) (imm : Half) :
    commandWord op ch imm &&& 0x0000FFCF#32 = commandWord op 0#2 0#16 := by
  have hmask : ∀ j, j < 32 → (0x0000FFCF#32).getLsbD j = (decide (j < 4) || (decide (6 ≤ j) && decide (j < 16))) := by
    decide
  apply BitVec.eq_of_getLsbD_eq
  intro j hj
  rw [BitVec.getLsbD_and, getLsbD_commandWord, getLsbD_commandWord, hmask j hj]
  by_cases h4 : j < 4
  · simp [h4]
  · by_cases h6 : j < 6
    · simp [h4, h6, show ¬ 6 ≤ j by omega]
    · by_cases h16 : j < 16
      · simp [h4, h6, h16]
      · simp [h4, h6, h16]

theorem setmaxv (ch : BitVec 2) (imm : Half) : Statement (.setmaxv ch imm) :=
  (masked_value_word 0x6#4 ch imm).trans (by show _ = 0x00000006#32; decide)

theorem setgain (ch : BitVec 2) (imm : Half) : Statement (.setgain ch imm) :=
  (masked_value_word 0x7#4 ch imm).trans (by show _ = 0x00000007#32; decide)

theorem setvol (ch : BitVec 2) (imm : Half) : Statement (.setvol ch imm) :=
  (masked_value_word 0x8#4 ch imm).trans (by show _ = 0x00000008#32; decide)

theorem read (ch : BitVec 2) : Statement (.read ch) := by
  revert ch; unfold Statement; decide

theorem ack (ch : BitVec 2) : Statement (.ack ch) := by
  revert ch; unfold Statement; decide

end Laws.EncodeMatchesTable

end Sys2Proof
end

