-- ==== Sys2Proof/Tests/Slice0.lean ====
section
/-!
SUPPORT. Tests: decoding of words written out from 30_encoding.md, one step of each kind on small states with the
results spec/ gives, and for each obligation with hypotheses a state that meets them.
-/

namespace Sys2Proof.Machine.Tests

open Sys2Proof Sys2Proof.Machine

/-! ## The well-formedness check (R127) and decoding (R112 to R126) -/

theorem test_wellFormed_refuses_channel_three :
    ∀ i ∈ [Instr.init 3, .deinit 3, .start 3, .stop 3, .setrdy 3 true, .setmaxv 3 64, .setgain 3 16, .setvol 3 32,
      .read 3, .ack 3], i.wellFormed = false := by decide

theorem test_wellFormed_accepts_channels :
    ∀ i ∈ [Instr.init 0, .deinit 1, .start 2, .setrdy 2 false, .setmaxv 0 65535, .ack 2], i.wellFormed = true := by
  decide

/-- R112 to R121: the word of each command as the rule writes it. -/
theorem test_decode_init : decode 0b0000000000000000_0000000000_01_0001 = .instr (.init 1) := by decide
theorem test_decode_deinit : decode 0b0000000000000000_0000000000_10_0010 = .instr (.deinit 2) := by decide
theorem test_decode_start : decode 0b0000000000000000_0000000000_01_0011 = .instr (.start 1) := by decide
theorem test_decode_stop : decode 0b0000000000000000_0000000000_10_0100 = .instr (.stop 2) := by decide
theorem test_decode_setrdy : decode 0b0000000000000001_0000000000_10_0101 = .instr (.setrdy 2 true) := by decide
theorem test_decode_setrdy_off : decode 0b0000000000000000_0000000000_00_0101 = .instr (.setrdy 0 false) := by decide
theorem test_decode_setmaxv : decode 0b0000000001000000_0000000000_00_0110 = .instr (.setmaxv 0 64) := by decide
theorem test_decode_setgain : decode 0b0000000000010000_0000000000_01_0111 = .instr (.setgain 1 16) := by decide
theorem test_decode_setvol : decode 0b0000000000100000_0000000000_01_1000 = .instr (.setvol 1 32) := by decide
theorem test_decode_read : decode 0b0000000000000000_0000000000_10_1001 = .instr (.read 2) := by decide
theorem test_decode_ack : decode 0b0000000000000000_0000000000_01_1010 = .instr (.ack 1) := by decide

/-- R122 to R125: reserved OP, RSV, IMM16 and channel 3. -/
theorem test_decode_illegal :
    decode 0x00000000 = .illegal .reservedOp ∧ decode 0x0000000B = .illegal .reservedOp ∧
    decode 0x0000000F = .illegal .reservedOp ∧ decode 0x00000041 = .illegal .reservedBits ∧
    decode 0x00008006 = .illegal .reservedBits ∧ decode 0x00010001 = .illegal .immConstraint ∧
    decode 0x00020005 = .illegal .immConstraint ∧ decode 0x00000033 = .instr (.start 3) := by decide

theorem test_encode_words :
    encode (.init 2) = 0x00000021 ∧ encode (.deinit 1) = 0x00000012 ∧ encode (.setrdy 0 true) = 0x00010005 ∧
    encode (.setmaxv 0 64) = 0x00400006 ∧ encode (.read 1) = 0x00000019 ∧ encode (.ack 2) = 0x0000002A := by decide

theorem test_decodeTableWord :
    decodeTableWord 32 0x00100017 = some (.setgain 1 16) ∧ decodeTableWord 32 0x00000000 = none := by decide

/-! ## Small states -/

/-- A channel as INIT leaves it at 1000 Hz with a buffer of one sample: stride 1, 8 raw bytes. -/
def idle : Channel :=
  { Channel.reset with
    lstate := .idle, cfg := { ChanConfig.reset with rate := 1000#32, bufsz := 1#32 }, rawSize := 8,
    raw := #v[some [], some []], holdsBuf := #v[true, true], holdsDma := true,
    fp := { filterParamsReset with dec := 64, maxv := 64, gain := 16 }, vol := 64 }

/-- `n` written bytes. -/
def written (n : Nat) : Memory := (List.range n).map (fun i => (i, 0x5A#8))

/-- That channel capturing, with `n` bytes of the transfer into buffer 0 done. -/
def active (n : Nat) : Channel :=
  { idle with
    lstate := .active, frs := some ⟨0⟩, capEn := true, dmaIrqEn := true, dmaArmed := true, dmaProg := n,
    raw := #v[some (written n), some []] }

/-- Its transfer ended: the completion is pending. -/
def pending : Channel := { active 8 with dmaArmed := false, dmaPend := true }

/-- Buffer 0 published, the transfer into buffer 1 begun. -/
def published : Channel := { active 8 with w := 1, dmaProg := 0, pendCount := 1#32 }

/-- A state with one channel in use. -/
def withChan (x : Channel) : State :=
  { State.reset with chans := #v[x, Channel.reset, Channel.reset], lineEn := x.dmaIrqEn }

/-- A state with two of them. -/
def withTwo (x y : Channel) : State := { withChan x with chans := #v[x, y, Channel.reset], lineEn := true }

/-- A READ of the published buffer in progress. -/
def reading : State :=
  { withChan { published with r := 1 } with
    rd := { busy := true, ch := 0, buf := 0, addr := 0x20001000#32, n := 1, k := 0 } }

/-- The state with its next moves listed. -/
def doing (s : State) (es : List Event) : State := { s with agenda := es }

/-- The state with channel 0 staged. -/
def staged (rate bufsz : Word) (answers : List Bool) : State :=
  { State.reset with
    staging := #v[{ Staging.reset with rate := rate, bufsz := bufsz }, Staging.reset, Staging.reset],
    answers := answers }

/-- What a step leaves of one field. -/
def after {α : Type} (o : Out) (f : State → α) : Option α :=
  match o with
  | .next t => some (f t)
  | .fault _ => none
  | .refused _ => none

/-! ## One step each -/

/-- V2.11: after reset CFG is 0, so INIT is CONFIG_ERROR; START and READ are BAD_STATE; DEINIT is OK. -/
theorem test_first_command_after_reset :
    after (step (State.reset.withFetchWord 32 0x00000001)) statusWord = some 0x00000100#32 ∧
    after (step (State.reset.withFetchWord 32 0x00000003)) statusWord = some 0x00000600#32 ∧
    after (step (State.reset.withFetchWord 32 0x00000009)) statusWord = some 0x00000600#32 ∧
    after (step (State.reset.withFetchWord 32 0x00000002)) statusWord = some 0x00000000#32 ∧
    after (step (State.reset.withFetchWord 32 0x00000033)) statusWord = some 0x00000400#32 ∧
    after (step (State.reset.withFetchWord 32 0x00000000)) statusWord = some 0x00000500#32 := by decide

/-- R140: the example of the rule: 48000 Hz, 480 samples: IDLE, raw_size 3840. -/
theorem test_init_example :
    after (exec (.init 0) (staged 48000 480 [true, true, true])) (fun t => (t.err, (t.chan 0).lstate, (t.chan 0).rawSize))
      = some (.ok, .idle, 3840) := by decide

/-- P4: buffer 1 refused, then the DMA resource refused; nothing is held. -/
theorem test_init_unwinds :
    after (exec (.init 0) (staged 44100 440 [true, false])) (fun t => (t.err, (t.chan 0).holdsBuf))
      = some (.allocationError, #v[false, false]) ∧
    after (exec (.init 0) (staged 44100 440 [true, true, false])) (fun t => (t.err, (t.chan 0).holdsDma))
      = some (.resourceExhausted, false) := by decide

theorem test_deinit_tears_down :
    after (exec (.deinit 0) (withChan (active 3))) (fun t => (t.chan 0, t.lineEn)) = some (Channel.reset, false) := by
  decide

/-- R146: the example of the rule: CH_STAT 0x3A2 (ACTIVE, armed, capturing, interrupt and line on). -/
theorem test_start : after (exec (.start 0) (withChan idle)) (fun t => chStatWord t 0) = some 0x000003A2#32 := by decide

/-- R148: STOP of one of two running channels leaves the line on. -/
theorem test_stop :
    after (exec (.stop 0) (withTwo (active 3) (active 0))) (fun t => (chStatWord t 0, t.lineEn))
      = some (0x00000201#32, true) := by decide

theorem test_setters :
    after (exec (.setrdy 0 true) (withChan idle)) (fun t => (t.chan 0).readyEn) = some true ∧
    after (exec (.setmaxv 0 65535) (withChan idle)) (fun t => (t.chan 0).fp.maxv) = some 0xFFFF#16 ∧
    after (exec (.setgain 0 7) (withChan idle)) (fun t => (t.chan 0).fp.gain) = some 7#16 ∧
    after (exec (.setvol 0 9) (withChan idle)) (fun t => (t.chan 0).vol) = some 9#16 := by decide

/-- R201, R203: 44100 Hz has stride 44; a request of 100 of 440 samples gives 88. -/
theorem test_sampleCount :
    sampleCount { ChanConfig.reset with rate := 44100, bufsz := 440 } 100 = 88 ∧
    sampleCount { ChanConfig.reset with rate := 48000, bufsz := 480 } 1000 = 480 := by decide

/-- R202: the check order of R205 (f), the consume, and the empty poll. -/
theorem test_read :
    after (exec (.read 0) { withChan published with arg0 := 1#32, arg1 := 1#32 }) (fun t => t.err) = some .misaligned ∧
    after (exec (.read 0) { withChan published with arg0 := 0xFFFFFFFE#32, arg1 := 1#32 }) (fun t => (t.rd.busy, (t.chan 0).r))
      = some (true, 1) ∧
    after (exec (.read 0) { withChan published with arg1 := 0#32 }) (fun t => (t.rd.busy, (t.chan 0).r)) = some (false, 1) ∧
    after (exec (.read 0) { withChan (active 0) with arg1 := 1#32 }) (fun t => (t.err, t.rd.busy)) = some (.ok, false) := by
  decide

theorem test_ack :
    after (exec (.ack 0) (withChan published)) (fun t => (t.result, (t.chan 0).pendCount)) = some (1#32, 0#32) := by
  decide

/-- V2.9: a command while BUSY is dropped and sets LOST. -/
theorem test_busy_drops : after (exec (.ack 0) reading) statusWord = some 0x00000003#32 := by decide

/-- R231: IRQ_STAT 0x105, a write of 1 leaves 0x104. -/
theorem test_irqStat_clear :
    irqStatWord (clearIrqStat 1#32 { State.reset with
      chans := #v[{ idle with readyPend := true, ovr := true }, idle, { idle with readyPend := true }] })
      = 0x00000104#32 := by decide

/-- R250: the last byte of a transfer pends the completion (V2.1). -/
theorem test_last_dma_byte :
    (((dmaStep 0 1#8 (withChan (active 7))).chan 0).dmaPend, ((dmaStep 0 1#8 (withChan (active 7))).chan 0).rawByte? 0 7)
      = (true, some 1#8) := by decide

/-- R251, V2.2 and V2.5: the swap, and the overrun of a READ's buffer. -/
theorem test_handler :
    (chStatWord (handlerStep (withChan pending)) 0, ((handlerStep (withChan pending)).chan 0).pendCount)
      = (0x000003A6#32, 1#32) ∧
    ((handlerStep { reading with chans := #v[{ pending with w := 1, r := 1 }, Channel.reset, Channel.reset] }).chan 0).ovr
      = true := by decide

/-- R203: the only chunk of a READ ends it. -/
theorem test_chunk :
    ((chunkStep (fun _ _ => true) reading).rd.busy, (chunkStep (fun _ _ => true) reading).result) = (false, 1#32) := by
  decide

/-- R91, R306: a refused chunk. -/
theorem test_refused_chunk : statusWord (chunkStep (fun _ _ => false) reading) = 0x00000905#32 := by decide

/-- R257: the earliest PDM bit in bit 7, in bit 0 and in bit 3, and the two running orders whole. -/
theorem test_packPdm :
    packPdm 7 id [true, false, false, false, false, false, false, false] = 0x80#8 ∧
    packPdm 0 id [true, false, false, false, false, false, false, false] = 0x01#8 ∧
    packPdm 3 (fun _ => 0) [true, false, false, false, false, false, false, false] = 0x08#8 ∧
    packPdm 7 id [true, true, false, true, false, false, false, false] = 0xD0#8 ∧
    packPdm 0 (fun _ => 0) [true, true, false, true, false, false, false, false] = 0x0B#8 := by decide

/-- R340: a reset keeps the range of the READ it abandons, and a byte the host stores there leaves it. -/
theorem test_abandoned_range :
    after (step (doing reading [.reset])) (fun t => (t.openRanges, t.rd.busy)) =
      some ([{ lo := 0x20001000, hi := 0x20001002 }], false) ∧
    settle 0x20001000 0x20001001 [{ lo := 0x20001000, hi := 0x20001002 }] = [{ lo := 0x20001001, hi := 0x20001002 }] ∧
    settle 5 7 [{ lo := 4, hi := 8 }] = [{ lo := 4, hi := 5 }, { lo := 7, hi := 8 }] := by decide

/-- R87: the bytes of STATUS 0x00000905. -/
theorem test_regByte :
    (List.range 4).map (regByte { reading with err := .busFault, fault := true } .status) =
      [0x05#8, 0x09#8, 0x00#8, 0x00#8] := by decide

/-- R88: little-endian. -/
theorem test_write16 : Memory.write16 [] 6 0x1234#16 = [(6, 0x34#8), (7, 0x12#8)] := by decide

/-! ## Witnesses: for each obligation with hypotheses, states that meet them, clause by clause -/

theorem witness_EncodeOfDecodeIsTheWord : decode 0x00400006#32 = .instr (.setmaxv 0 64) := by decide

theorem witness_StepRunsTheDecodedCommand :
    decode 0x00000001#32 = .instr (.init 0) ∧
    (doing State.reset [.write 0x00 4 0x00000001#32]).agenda = .write 0x00 4 0x00000001#32 :: [] := by decide

theorem witness_StepRunsTheAgentsMove :
    ∀ e ∈ [Event.dma 0 1#8, .irq, .chunk], (doing reading [e]).agenda = e :: [] ∧ (doing reading [e]).fault = false := by
  decide

/-- Faulted, busy, and accepted with a command, with an illegal word and with a READ that begins. -/
theorem witness_CommandIsDroppedOrAccepted :
    (doing { reading with fault := true } [.write 0x00 4 0xA#32]).fault = true ∧
    (reading.fault = false ∧ reading.rd.busy = true) ∧
    (State.reset.accepting ∧ decode 0x1#32 = .instr (.init 0) ∧ decode 0#32 = .illegal .reservedOp) ∧
    after (step (doing { withChan published with arg1 := 1#32 } [.write 0x00 4 0x9#32])) (fun t => t.rd.busy) =
      some true := by decide

theorem witness_EveryCommandIsDroppedWhileBusy : reading.fault = false ∧ reading.rd.busy = true := by decide

/-- The boundary of each clause: OP 0, 0xB and 0xF; RSV bits 6 and 15; IMM16 1 and SETRDY's IMM16 2. -/
theorem witness_IllegalWordReportsIllegalCommand :
    (doing State.reset [.write 0x00 4 0#32]).accepting ∧
    wordReserved 0x0#32 ∧ wordReserved 0xB#32 ∧ wordReserved 0xFFFFFFFF#32 ∧ ¬ wordReserved 0xA#32 ∧
    wordRsv 0x00000041#32 ≠ 0 ∧ wordRsv 0x00008001#32 ≠ 0 ∧
    wordImmViolated 0x00010001#32 ∧ wordImmViolated 0x00020005#32 ∧ ¬ wordImmViolated 0x00010005#32 ∧
    ¬ wordImmViolated 0xFFFF0008#32 := by decide

theorem witness_ChannelThreeIsInvalid : State.reset.accepting ∧ (Instr.start 3).ch = 3#2 := by decide

theorem witness_WrongStateReportsBadState :
    (State.reset.accepting ∧ chanOf (Instr.ack 2).ch = some 2 ∧ (State.reset.chan 2).lstate = .uninit) ∧
    ((withChan idle).accepting ∧ chanOf (Instr.init 0).ch = some 0 ∧ ((withChan idle).chan 0).lstate ≠ .uninit) ∧
    ((withChan (active 0)).accepting ∧ chanOf (Instr.start 0).ch = some 0 ∧
      ((withChan (active 0)).chan 0).lstate = .active) := by decide

/-- Each stop is reached: after FAULT, just outside the block, and inside it but narrow or unaligned. -/
theorem witness_StepStopsOnlyWhereTheSpecSaysSo :
    step (doing { State.reset with fault := true } [.irq]) = .fault .busFault ∧
    step (doing State.reset [.read 0x80 4]) = .fault .outsideBlock ∧
    step (doing State.reset [.read 0x7E 4]) = .fault .unadmittedAccess ∧
    step (doing State.reset [.write 0x7C 2 0#32]) = .fault .unadmittedAccess :=
  ⟨rfl, rfl, rfl, rfl⟩

/-- The smallest valid configuration. -/
theorem witness_InitMakesTheChannelIdle :
    (staged 1000 0 [true, true, true]).accepting ∧ chanOf 0#2 = some 0 ∧
    ((staged 1000 0 [true, true, true]).chan 0).lstate = .uninit ∧
    1 ≤ ((staged 1000 0 [true, true, true]).stage 0).rate.toNat / 1000 ∧
    ((staged 1000 0 [true, true, true]).stage 0).bufsz.toNat %
      (((staged 1000 0 [true, true, true]).stage 0).rate.toNat / 1000) = 0 ∧
    (staged 1000 0 [true, true, true]).answers = true :: true :: true :: [] := by decide

/-- A rate just below 1000, a buffer one sample over, and each refusal. -/
theorem witness_InitFailsWithoutEffect :
    ((staged 999 0 []).accepting ∧ chanOf 0#2 = some 0 ∧ ((staged 999 0 []).chan 0).lstate = .uninit) ∧
    ((staged 999 0 []).stage 0).rate.toNat / 1000 = 0 ∧
    ((staged 2000 3 []).stage 0).bufsz.toNat % (((staged 2000 3 []).stage 0).rate.toNat / 1000) ≠ 0 ∧
    (1 ≤ ((staged 2000 2 []).stage 0).rate.toNat / 1000 ∧
      ((staged 2000 2 []).stage 0).bufsz.toNat % (((staged 2000 2 []).stage 0).rate.toNat / 1000) = 0) ∧
    (staged 2000 2 [false]).answers = false :: [] ∧ (staged 2000 2 [true, false]).answers = true :: false :: [] ∧
    (staged 2000 2 [true, true, false]).answers = true :: true :: false :: [] := by decide

theorem witness_InitHoldsAllOrNothing :
    State.reset.accepting ∧ chanOf 2#2 = some 2 ∧ State.reset.chan 2 = Channel.reset := by decide

/-- UNINIT, IDLE and ACTIVE channels in accepting states: the clauses of DEINIT, START, STOP, LifecycleTransitions
and of the setters and ACK. -/
theorem witness_lifecycle_clauses :
    (State.reset.accepting ∧ chanOf 0#2 = some 0 ∧ (State.reset.chan 0).lstate = .uninit) ∧
    ((withChan idle).accepting ∧ ((withChan idle).chan 0).lstate = .idle) ∧
    ((withTwo (active 3) (active 0)).accepting ∧ chanOf 1#2 = some 1 ∧
      ((withTwo (active 3) (active 0)).chan 0).lstate = .active ∧
      ((withTwo (active 3) (active 0)).chan 1).lstate = .active) := by decide

theorem witness_DeinitTearsTheChannelDown :
    (withChan (active 3)).accepting ∧ chanOf 0#2 = some 0 ∧ ((withChan (active 3)).chan 0).lstate ≠ .uninit := by decide

theorem witness_StartBeginsCapture :
    (withChan idle).accepting ∧ chanOf 0#2 = some 0 ∧ ((withChan idle).chan 0).lstate = .idle := by decide

theorem witness_StopHaltsTheChannel :
    (withChan (active 3)).accepting ∧ chanOf 0#2 = some 0 ∧ ((withChan (active 3)).chan 0).lstate = .active := by decide

theorem witness_AsymmetricStopHaltsChannelZeroOnly :
    ((withTwo (active 3) (active 0)).chan 0).lstate = .active ∧ ((withTwo (active 3) (active 0)).chan 1).lstate = .active ∧
    (1 : Chan) ≠ 0 := by decide

theorem witness_LifecycleTransitions :
    (withChan idle).accepting ∧ chanOf (Instr.stop 0).ch = some 0 ∧ ((withChan idle).chan 0).lstate = .idle := by decide

theorem witness_SetrdySetsTheReadyEnable :
    (withChan idle).accepting ∧ chanOf 0#2 = some 0 ∧ ((withChan idle).chan 0).lstate ≠ .uninit := by decide

theorem witness_FilterSettersSetTheirValue :
    (withTwo idle (active 1)).accepting ∧ chanOf 1#2 = some 1 ∧ ((withTwo idle (active 1)).chan 1).lstate ≠ .uninit := by
  decide

theorem witness_SampleCountIsTheGreatestMultiple :
    ChanConfig.valid { ChanConfig.reset with rate := 48000, bufsz := 480 } = true ∧
    (480 % strideOf 48000 = 0 ∧ 480 ≤ (0xFFFFFFFF#32).toNat) := by decide

/-- Every clause of READ: UNINIT; odd; one byte past the top and exactly at it; empty; no sample; samples. -/
theorem witness_ReadConsumesThePublishedBuffer :
    (State.reset.accepting ∧ chanOf 0#2 = some 0 ∧ (State.reset.chan 0).lstate = .uninit) ∧
    ((withChan published).accepting ∧ ((withChan published).chan 0).lstate ≠ .uninit ∧
      (0xFFFFFFFF#32).toNat % 2 = 1 ∧ (0xFFFFFFFE#32).toNat % 2 = 0 ∧
      2 ^ 32 < (0xFFFFFFFE#32).toNat + 2 * min (2 / (2000 / 1000) * (2000 / 1000)) 2 ∧
      (0xFFFFFFFE#32).toNat + 2 * min (1 / (1000 / 1000) * (1000 / 1000)) 1 ≤ 2 ^ 32) ∧
    ((withChan (active 0)).chan 0).r = ((withChan (active 0)).chan 0).w ∧
    ((withChan published).chan 0).r ≠ ((withChan published).chan 0).w ∧
    min ((0#32).toNat / (1000 / 1000) * (1000 / 1000)) (1#32).toNat = 0 ∧
    min ((1#32).toNat / (1000 / 1000) * (1000 / 1000)) (1#32).toNat = 1 := by decide

/-- An idle engine, the last chunk, and a chunk with another after it. -/
theorem witness_ChunkWritesItsSamples :
    (reading.chan reading.rd.ch).frs = some ⟨0⟩ ∧ (withChan published).rd.busy = false ∧ reading.rd.busy = true ∧
    (∀ j, j < (reading.chan reading.rd.ch).cfg.rate.toNat / 1000 →
      admits (fun _ _ => true) (reading.rd.addr.toNat + 2 * reading.rd.k * 1 + 2 * j) = true) ∧
    (reading.rd.k + 1) * ((reading.chan reading.rd.ch).cfg.rate.toNat / 1000) = reading.rd.n ∧
    (reading.rd.k + 1) * ((reading.chan reading.rd.ch).cfg.rate.toNat / 1000) ≠ 2 := by
  refine ⟨by decide, by decide, by decide, ?_, by decide, by decide⟩
  have h1 : (reading.chan reading.rd.ch).cfg.rate.toNat / 1000 = 1 := by decide
  intro j hj
  rw [h1] at hj
  obtain rfl : j = 0 := by omega
  decide

theorem witness_RefusedChunkWritesNothing :
    reading.rd.busy = true ∧ 0 < (reading.chan reading.rd.ch).cfg.rate.toNat / 1000 ∧
    (fun (_ _ : Nat) => false) (reading.rd.addr.toNat + 2 * reading.rd.k * 1 + 2 * 0) 2 = false := by decide

theorem witness_ReadRunsToCompletion :
    reading.rd.busy = true ∧ reading.rd.k = 0 ∧ (reading.chan reading.rd.ch).frs = some ⟨0⟩ ∧
    0 < (reading.chan reading.rd.ch).stride ∧ reading.rd.n = 1 * (reading.chan reading.rd.ch).stride ∧
    (∀ i, i < reading.rd.n → admits (fun _ _ => true) (reading.rd.addr.toNat + 2 * i) = true) ∧ 1 ≤ 1 := by
  refine ⟨by decide, by decide, by decide, by decide, by decide, ?_, le_refl _⟩
  intro i hi
  have hn : reading.rd.n = 1 := by decide
  obtain rfl : i = 0 := by omega
  decide

/-- Two states that differ in an output address and share the decoder's inputs, for one chunk. -/
theorem witness_EqualInputsDecodeEqually :
    let t := { reading with rd := { reading.rd with addr := 0#32 } }
    let x := reading.chan reading.rd.ch
    let y := t.chan t.rd.ch
    x.stride = y.stride ∧ x.fp = y.fp ∧ x.vol = y.vol ∧ x.frs = some ⟨0⟩ ∧ y.frs = some ⟨0⟩ ∧ 0 < 1 ∧
    ∀ i, i < 1 * x.chunkBytes → (x.rawByte? reading.rd.buf (reading.rd.k * x.chunkBytes + i)).isSome = true ∧
      x.rawByte? reading.rd.buf (reading.rd.k * x.chunkBytes + i) = y.rawByte? t.rd.buf (t.rd.k * y.chunkBytes + i) := by
  have key : (reading.chan reading.rd.ch).chunkBytes = 8 := by decide
  refine ⟨by decide, by decide, by decide, by decide, by decide, by decide, ?_⟩
  rw [key]
  decide

theorem witness_AckTranscribesAndClears :
    (withChan published).accepting ∧ chanOf 0#2 = some 0 ∧ ((withChan published).chan 0).lstate ≠ .uninit := by decide

theorem witness_IrqStatIsWriteOneToClear :
    (doing reading [.write 0x14 4 0x101#32]).agenda = .write 0x14 4 0x101#32 :: [] ∧
    (doing reading [.write 0x14 4 0x101#32]).fault = false := by decide

/-- A channel at the last byte of its transfer meets the channel invariant. -/
theorem active_inv (n : Nat) (h : n ≤ 7) : ChannelInv (active n) where
  uninitIsReset h := by cases h
  configValid _ := by show idle.cfg.valid = true; decide
  rawSizeLatched _ := rfl
  resourcesHeld _ := ⟨rfl, rfl, fun b => by fin_cases b <;> rfl⟩
  rawCanonical b m hm := by
    have key : ∀ n ≤ 7, Memory.sorted (written n) ∧ Memory.below 8 (written n) := by decide
    fin_cases b
    · obtain rfl : written n = m := Option.some.inj hm
      exact key n h
    · obtain rfl : [] = m := Option.some.inj hm
      exact ⟨List.Pairwise.nil, by intro x hx; cases hx⟩
  pendingNotArmed h := by cases h
  quietUnlessActive h := absurd rfl h
  activeCaptures _ := ⟨rfl, rfl, .inl rfl, rfl⟩
  armedProgress _ := by
    refine ⟨show n < 8 by omega, ?_⟩
    have key : ∀ n ≤ 7, ∀ i < n, (Memory.read (written n) i).isSome = true := by decide
    exact key n h
  pendingFilled h := by cases h
  publishedFilled h := absurd rfl h
  publishedFilter h := by cases h

/-- Not capturing; the last byte of a transfer; a byte before it. -/
theorem witness_DmaStoresOneByte :
    idle.dmaArmed = false ∧
    (ChannelInv ((withChan (active 7)).chan 0) ∧ (active 7).dmaArmed = true ∧ (active 7).capEn = true) ∧
    (ChannelInv ((withChan (active 0)).chan 0) ∧ (active 0).dmaProg + 1 ≠ (active 0).rawSize) :=
  ⟨rfl, ⟨active_inv 7 (by decide), rfl, rfl⟩, ⟨active_inv 0 (by decide), by decide⟩⟩

theorem witness_TransferFillsTheBuffer :
    ChannelInv ((withChan (active 0)).chan 0) ∧ (active 0).dmaArmed = true ∧ (active 0).capEn = true ∧
    (active 0).dmaProg = 0 ∧ (List.replicate 8 0xA5#8).length ≤ (active 0).rawSize :=
  ⟨active_inv 0 (by decide), rfl, rfl, rfl, by decide⟩

/-- The line off; no completion due; a completion due on channel 0, and on channel 1 with none below it. -/
theorem witness_HandlerServicesTheLowestChannel :
    State.reset.lineEn = false ∧
    (∀ d, ¬ (((withChan (active 0)).chan d).dmaPend = true ∧ ((withChan (active 0)).chan d).dmaIrqEn = true)) ∧
    ((withChan pending).lineEn = true ∧ pending.dmaPend = true ∧ pending.dmaIrqEn = true) ∧
    (∀ d : Chan, d < 1 → ¬ (((withTwo (active 0) pending).chan d).dmaPend = true ∧
      ((withTwo (active 0) pending).chan d).dmaIrqEn = true)) := by decide

theorem witness_SimultaneousCompletionsAreAscending :
    (withTwo pending pending).lineEn = true ∧ (0 : Chan) < 1 ∧
    ((withTwo pending pending).chan 0).completionDue = true ∧ ((withTwo pending pending).chan 1).completionDue = true ∧
    ((withTwo pending pending).chan 0).rawSize ≠ 0 ∧
    ∀ e : Chan, e < 1 → e ≠ 0 → ((withTwo pending pending).chan e).completionDue = false := by decide

theorem witness_WriteIndexAlternatesFromZero :
    (withChan idle).accepting ∧ chanOf 0#2 = some 0 ∧ ((withChan idle).chan 0).lstate = .idle := by decide

theorem witness_EmptyBufferCompletesAtOnce :
    let x := { idle with rawSize := 0, cfg := { idle.cfg with bufsz := 0#32 } }
    chanOf 0#2 = some 0 ∧ ((withChan x).chan 0).rawSize = 0 ∧ (withChan x).accepting ∧
    ((withChan x).chan 0).lstate = .idle := by decide

theorem witness_ResetLeavesTheStatedValues :
    (doing { reading with fault := true } [.reset]).agenda = .reset :: [] := by decide

theorem witness_ResetRestoresTheBlock :
    (doing { reading with fault := true } [.reset]).agenda = .reset :: [] := by decide

/-- The first and the last offset, each with a narrow and an unaligned access. -/
theorem witness_UnalignedOrNarrowAccessIsStuck :
    (0 : Nat) < 0x80 ∧ ((2 : Nat) ≠ 4 ∨ 0 % 4 ≠ 0) ∧ 0x7F < 0x80 ∧ ((4 : Nat) ≠ 4 ∨ 0x7F % 4 ≠ 0) ∧
    (doing State.reset [.read 0x7F 4]).agenda = .read 0x7F 4 :: [] ∧ State.reset.fault = false := by decide

theorem witness_RegisterReadsHaveNoSideEffect :
    reading.fault = false ∧ (doing reading [.read (Reg.filtVol 2).offset 4]).agenda = .read 0x7C 4 :: [] := by decide

/-- A stored register, CFG_PINS with its reserved bits set, and an ignored one. -/
theorem witness_RegisterWritesStoreOrAreIgnored :
    reading.fault = false ∧ Reg.cfgPins 2 ≠ .cmd ∧ Reg.cfgPins 2 ≠ .irqStat ∧
    (doing reading [.write (Reg.cfgPins 2).offset 4 0xFFFFFFFF#32]).agenda = .write 0x68 4 0xFFFFFFFF#32 :: [] ∧
    Reg.arg1 ≠ .cmd ∧ Reg.arg1 ≠ .irqStat ∧ Reg.reserved1 ≠ .cmd ∧ Reg.reserved1 ≠ .irqStat := by decide

/-- The first byte of the output range, the byte after its last one, which has been written, and the last byte of an
abandoned range. -/
theorem witness_HostLoadSeesTheLastWrite :
    reading.fault = false ∧ isOpen reading.openRanges (0x20001002#32).toNat = false ∧
    isOpen [{ lo := 0x20001000, hi := 0x20001002 }] (0x20001001#32).toNat = true ∧
    (reading.rd.busy = true ∧ reading.rd.addr.toNat ≤ (0x20001000#32).toNat ∧
      (0x20001000#32).toNat < reading.rd.addr.toNat + 2 * reading.rd.n) ∧
    (¬ (0x20001002#32).toNat < reading.rd.addr.toNat + 2 * reading.rd.n ∧
      Memory.read (Memory.write [] 0x20001002 7#8) (0x20001002#32).toNat = some 7#8) := by decide

/-- The first byte and the last of the range of a READ that a reset abandons after FAULT. -/
theorem witness_AbandonedReadIsAnyValueUntilWritten :
    (doing { reading with fault := true } [.reset, .memLoad 0x20001000#32]).rd.busy = true ∧
    reading.rd.addr.toNat ≤ (0x20001000#32).toNat ∧ (0x20001001#32).toNat < reading.rd.addr.toNat + 2 * reading.rd.n ∧
    (doing reading [.reset, .memStore 0x20001001#32 7#8, .memLoad 0x20001001#32]).rd.busy = true := by decide

theorem witness_FaultStopsEveryAgent :
    (doing { reading with fault := true } [.chunk]).fault = true ∧ Event.chunk ≠ .reset := by decide

theorem witness_CommandsTouchOneChannel :
    after (exec (.stop 0) (withTwo (active 3) (active 0))) (fun t => t.chan 1) = some (active 0) ∧
    chanOf (Instr.stop 0).ch ≠ some 1 := by decide

/-- The invariant after reset with moves listed, for the witnesses below. -/
theorem doing_reset_inv (es : List Event) : BlockInv (doing State.reset es) where
  channels c := by
    have e : (doing State.reset es).chan c = Channel.reset := State.reset_chan c
    rw [e]
    constructor
    case rawCanonical => intro b m h; fin_cases b <;> cases h
    case uninitIsReset => exact fun _ => rfl
    case publishedFilter => exact fun _ => rfl
    case quietUnlessActive => exact fun _ => ⟨rfl, rfl, rfl, rfl⟩
    case publishedFilled => exact fun h => absurd rfl h
    all_goals intro h; first | exact absurd rfl h | cases h
  reading := by constructor <;> (intro h; cases h)
  line := rfl
  memory := Memory.wf_nil
  faulted h := by cases h

theorem witness_OnlyChunksAndTheHostWriteMemory :
    BlockInv (doing State.reset [.memStore 0#32 1#8]) ∧
    after (step (doing State.reset [.memStore 0#32 1#8])) (fun t => Memory.read t.mem 0) = some (some 1#8) ∧
    Memory.read (doing State.reset [.memStore 0#32 1#8]).mem 0 = none :=
  ⟨doing_reset_inv _, by decide, by decide⟩

theorem witness_BusyFreezesTheReadsOperands :
    reading.rd.busy = true ∧ after (step (doing reading [.write 0x00 4 0x00050008#32])) (fun t => t.lost) = some true ∧
    (takeEvent (doing reading [.write 0x00 4 0x00050008#32])).1 ≠ .reset := by decide

/-- A completion, and an ACK. -/
theorem witness_PendCountChangesOnlyAsStated :
    after (step (doing (withChan pending) [.irq])) (fun t => (t.chan 0).pendCount) = some 1#32 ∧
    ((doing (withChan pending) [.irq]).chan 0).pendCount = 0#32 ∧
    after (step (doing (withChan published) [.write 0x00 4 0xA#32])) (fun t => (t.chan 0).pendCount) = some 0#32 ∧
    ((doing (withChan published) [.write 0x00 4 0xA#32]).chan 0).pendCount = 1#32 := by decide

/-- `w` by a completion and by START; `r` by a completion, by READ and by DEINIT. -/
theorem witness_IndicesHaveTheStatedWriters :
    (after (step (doing (withChan pending) [.irq])) (fun t => (t.chan 0).w) = some 1 ∧ pending.w = 0) ∧
    after (step (doing (withChan { idle with w := 1 }) [.write 0x00 4 0x3#32])) (fun t => (t.chan 0).w) = some 0 ∧
    after (step (doing (withChan { pending with w := 1 }) [.irq])) (fun t => (t.chan 0).r) = some 1 ∧
    after (step (doing { withChan published with arg1 := 1#32 } [.write 0x00 4 0x9#32])) (fun t => (t.chan 0).r) =
      some 1 ∧
    after (step (doing (withChan { idle with r := 1 }) [.write 0x00 4 0x2#32])) (fun t => (t.chan 0).r) = some 0 := by
  decide

theorem witness_FrontEndIsLoadedByInitOnly :
    after (step (doing (staged 1000 0 [true, true, true]) [.write 0x00 4 0x1#32])) (fun t => (t.frontEnd[0]).isSome) =
      some true ∧
    (doing (staged 1000 0 [true, true, true]) [.write 0x00 4 0x1#32]).frontEnd[0] = none := by decide

/-- OVR and READY_PEND each cleared by a write of its own IRQ_STAT bit, and READY_PEND by START. -/
theorem witness_NotificationsAreSticky :
    after (step (doing (withChan { published with ovr := true, readyPend := true }) [.write 0x14 4 0x100#32]))
      (fun t => ((t.chan 0).ovr, (t.chan 0).readyPend)) = some (false, true) ∧
    after (step (doing (withChan { published with ovr := true, readyPend := true }) [.write 0x14 4 0x1#32]))
      (fun t => ((t.chan 0).ovr, (t.chan 0).readyPend)) = some (true, false) ∧
    after (step (doing (withChan { idle with readyPend := true }) [.write 0x00 4 0x3#32]))
      (fun t => (t.chan 0).readyPend) = some false := by decide

theorem witness_MemoryStaysCanonical :
    Memory.wf (doing State.reset [.memStore 0xFFFFFFFF#32 1#8]).mem ∧
    after (step (doing State.reset [.memStore 0xFFFFFFFF#32 1#8])) (fun t => t.mem) = some [(0xFFFFFFFF, 1#8)] :=
  ⟨Memory.wf_nil, by decide⟩

theorem witness_StepKeepsTheInvariant :
    BlockInv (doing State.reset [.write 0x0C 4 1#32]) ∧
    after (step (doing State.reset [.write 0x0C 4 1#32])) (fun t => t.arg0) = some 1#32 :=
  ⟨doing_reset_inv _, by decide⟩

/-! ### A reachable READ -/

/-- The moves of `es` one after another. -/
def performed : List Event → State → State
  | [], s => s
  | e :: es, s =>
      match step (doing s [e]) with
      | .next t => performed es t
      | .fault _ => s
      | .refused _ => s

theorem reachable_performed (es : List Event) {s : State} (h : Reachable s) : Reachable (performed es s) := by
  induction es generalizing s with
  | nil => exact h
  | cons e es ih =>
    simp only [performed]
    split
    · exact ih (.step _ _ (.inputs s [e] s.answers h) (by assumption))
    · exact h
    · exact h

/-- Channel 0 configured, initialised and started (P1 at 1000 Hz with a buffer of `n` samples). -/
def started (n : Word) : State :=
  performed [.write 0x20 4 1000#32, .write 0x24 4 n, .write 0x00 4 0x1#32, .write 0x00 4 0x3#32]
    { State.reset with answers := [true, true, true] }

theorem reachable_started (n : Word) : Reachable (started n) :=
  reachable_performed _ (.inputs State.reset [] [true, true, true] .reset)

/-- Its buffer filled and published. -/
def publishedRun : State := performed (List.replicate 8 (Event.dma 0 0x5A#8) ++ [.irq]) (started 1#32)

/-- (a) a pending completion, (b) an armed channel, (c) a published buffer, (d) an unset filter state. -/
theorem witness_ReachableStatesKeepTheBufferRules :
    (Reachable (started 0#32) ∧ ((started 0#32).chan 0).dmaPend = true) ∧
    (Reachable (started 1#32) ∧ ((started 1#32).chan 0).dmaArmed = true) ∧
    (Reachable publishedRun ∧ (publishedRun.chan 0).r ≠ (publishedRun.chan 0).w) ∧
    (Reachable State.reset ∧ (State.reset.chan 0).frs = none) :=
  ⟨⟨reachable_started _, by decide⟩, ⟨reachable_started _, by decide⟩,
    ⟨reachable_performed _ (reachable_started _), by decide⟩, .reset, by decide⟩

theorem witness_ReachableChunksReadWrittenBytes :
    Reachable (performed [.write 0x10 4 1#32, .write 0x00 4 0x9#32] publishedRun) ∧
    (performed [.write 0x10 4 1#32, .write 0x00 4 0x9#32] publishedRun).rd.busy = true :=
  ⟨reachable_performed _ (reachable_performed _ (reachable_started _)), by decide⟩

end Sys2Proof.Machine.Tests
end

section
/-!
PROOFS. The registers and reset (10_state.md): the register map, what a register write stores, the fields of the
status words, and the values after reset.
-/

namespace Sys2Proof.Machine

/-! ## Fields side by side -/

/-- The number of two fields side by side: the low one counts as it is, the high one in units of `2 ^ w`. -/
theorem toNat_append_eq {n w : Nat} (x : BitVec n) (y : BitVec w) : (x ++ y).toNat = 2 ^ w * x.toNat + y.toNat := by
  rw [BitVec.toNat_append, ← Nat.shiftLeft_add_eq_or_of_lt y.isLt, Nat.shiftLeft_eq, Nat.mul_comm]

theorem toNat_zero_append (n : Nat) {w : Nat} (y : BitVec w) : (0#n ++ y).toNat = y.toNat := by
  simp

/-! ## The register map (R32, R81) -/

theorem Reg.offset_lt (r : Reg) : r.offset < 0x80 := by
  cases r <;> simp only [Reg.offset] <;> omega

/-- The register at word index `j` has offset `4 * j`. -/
theorem offset_of_regAtIndex {j : Nat} (hj : j < 32) : (regAtIndex j).map Reg.offset = some (4 * j) := by
  revert j; decide

theorem regAtIndex_offset (r : Reg) : r.offset % 4 = 0 ∧ regAtIndex (r.offset / 4) = some r := by
  cases r with
  | cfgRate c | cfgBufsz c | cfgPins c | chStat c | pendCount c | filtMaxv c | filtGain c | filtVol c =>
    revert c; decide
  | _ => decide

/-- The register reached at an offset: the whole of R32, R81 and R84. -/
theorem regAt_eq_ok_iff (off size : Nat) (r : Reg) : regAt off size = .ok r ↔ size = 4 ∧ off = r.offset := by
  constructor
  · intro h
    unfold regAt at h
    split at h
    · cases h
    · split at h
      case isFalse => cases h
      case isTrue hlt hsize =>
        obtain ⟨rfl, hmod⟩ := hsize
        have hidx := offset_of_regAtIndex (j := off / 4) (by omega)
        split at h
        · rename_i r' hr
          injection h with h
          subst h
          rw [hr, Option.map_some, Option.some.injEq] at hidx
          exact ⟨rfl, by omega⟩
        · cases h
  · rintro ⟨rfl, rfl⟩
    obtain ⟨hmod, hidx⟩ := regAtIndex_offset r
    have hlt := r.offset_lt
    simp [regAt, hmod, hidx, Nat.not_le.2 hlt]

theorem regAt_offset (r : Reg) : regAt r.offset 4 = .ok r := (regAt_eq_ok_iff _ _ _).2 ⟨rfl, rfl⟩

theorem exists_regAt {off : Nat} (hlt : off < 0x80) (hmod : off % 4 = 0) : ∃ r, regAt off 4 = .ok r := by
  obtain ⟨r, -, hr⟩ := Option.map_eq_some_iff.1 (offset_of_regAtIndex (j := off / 4) (by omega))
  exact ⟨r, (regAt_eq_ok_iff _ _ _).2 ⟨rfl, by omega⟩⟩

theorem busOffset_byteAddress (r : Reg) {j : Nat} (hj : j < 4) : busOffset (r.byteAddress j) = r.offset + j := by
  have hlt := r.offset_lt
  have hcancel : Config.regBase + BitVec.ofNat 32 (r.offset + j) - Config.regBase = BitVec.ofNat 32 (r.offset + j) :=
    add_sub_cancel_left _ _
  rw [busOffset, Reg.byteAddress, hcancel, BitVec.toNat_ofNat]
  omega

theorem regByte_toNat (s : State) (r : Reg) (j : Nat) :
    (regByte s r j).toNat = (readReg s r).toNat / 2 ^ (8 * j) % 256 := by
  rw [regByte, BitVec.extractLsb'_toNat, Nat.shiftRight_eq_div_pow]

/-- Settles O41. -/
theorem registerMapIsOneToOne : Obligations.RegisterMapIsOneToOne := by
  refine ⟨?offsets, regAt_offset, fun off r h => ((regAt_eq_ok_iff _ _ _).1 h).2, fun off => exists_regAt,
    fun s r j hj => ⟨busOffset_byteAddress r hj, regByte_toNat s r j⟩⟩
  case offsets =>
    refine ⟨rfl, rfl, rfl, rfl, rfl, rfl, rfl, rfl, fun c => ?_⟩
    simp only [Reg.offset]
    omega

/-! ## Register writes (R36, R38, R39, R43, R86) -/

/-- What a register reads as does not depend on the agenda. -/
theorem readReg_with_agenda (s : State) (es : List Event) (r : Reg) :
    readReg { s with agenda := es } r = readReg s r := by
  cases r <;> rfl

/-- CFG_PINS keeps bits 23:0 of what is written (R39). -/
theorem pins_append_extract (v : Word) : 0#8 ++ v.extractLsb' 0 24 = v &&& 0x00FFFFFF#32 := by
  have hmask : (v &&& 0x00FFFFFF#32).toNat = v.toNat % 2 ^ 24 := by
    rw [BitVec.toNat_and, show (0x00FFFFFF#32).toNat = 2 ^ 24 - 1 from rfl, Nat.and_two_pow_sub_one_eq_mod]
  refine BitVec.eq_of_toNat_eq ((toNat_zero_append 8 _).trans ?_)
  rw [hmask, BitVec.extractLsb'_toNat, Nat.shiftRight_zero]

/-! The value a written staging register then reads as. -/

theorem readReg_storeReg_cfgRate (s : State) (c : Chan) (v : Word) :
    readReg (storeReg s (.cfgRate c) v) (.cfgRate c) = v := by
  simp [readReg, storeReg]

theorem readReg_storeReg_cfgBufsz (s : State) (c : Chan) (v : Word) :
    readReg (storeReg s (.cfgBufsz c) v) (.cfgBufsz c) = v := by
  simp [readReg, storeReg]

theorem readReg_storeReg_cfgPins (s : State) (c : Chan) (v : Word) :
    readReg (storeReg s (.cfgPins c) v) (.cfgPins c) = v &&& 0x00FFFFFF#32 := by
  simp [readReg, storeReg, ← pins_append_extract]

/-- A change of the staging registers shows only in the registers that hold them. -/
theorem readReg_modStage (s : State) (c : Chan) (f : Staging → Staging) (r : Reg)
    (hrate : r = .cfgRate c → (f (s.stage c)).rate = (s.stage c).rate)
    (hbufsz : r = .cfgBufsz c → (f (s.stage c)).bufsz = (s.stage c).bufsz)
    (hpins : r = .cfgPins c → (f (s.stage c)).pins = (s.stage c).pins) :
    readReg (s.modStage c f) r = readReg s r := by
  cases r with
  | cfgRate d =>
    by_cases hd : d = c
    · subst hd; simpa [readReg] using hrate rfl
    · simp [readReg, hd]
  | cfgBufsz d =>
    by_cases hd : d = c
    · subst hd; simpa [readReg] using hbufsz rfl
    · simp [readReg, hd]
  | cfgPins d =>
    by_cases hd : d = c
    · subst hd; simp [readReg, hpins rfl]
    · simp [readReg, hd]
  | _ => rfl

/-- A register write changes what no other register reads as; a write of CMD or IRQ_STAT is a command or a clear. -/
theorem readReg_storeReg_ne {s : State} {r r' : Reg} (v : Word) (hirq : r ≠ .irqStat) (h : r' ≠ r) :
    readReg (storeReg s r v) r' = readReg s r' := by
  cases r with
  | arg0 =>
    cases r' with
    | arg0 => exact absurd rfl h
    | _ => rfl
  | arg1 =>
    cases r' with
    | arg1 => exact absurd rfl h
    | _ => rfl
  | irqStat => exact absurd rfl hirq
  | cfgRate c => exact readReg_modStage s c _ r' (fun e => absurd e h) (fun _ => rfl) (fun _ => rfl)
  | cfgBufsz c => exact readReg_modStage s c _ r' (fun _ => rfl) (fun e => absurd e h) (fun _ => rfl)
  | cfgPins c => exact readReg_modStage s c _ r' (fun _ => rfl) (fun _ => rfl) (fun e => absurd e h)
  | _ => rfl

/-- A host write of a register other than CMD is its store. -/
theorem step_write_reg {s : State} {r : Reg} {v : Word} {rest : List Event} (hf : s.fault = false) (hr : r ≠ .cmd)
    (ha : s.agenda = .write r.offset 4 v :: rest) : step s = .next (storeReg { s with agenda := rest } r v) := by
  rw [step_of_agenda ha]
  simp only [runEvent, hf, hostWrite, regAt_offset]
  cases r with
  | cmd => exact absurd rfl hr
  | _ => rfl

/-- Settles O44. -/
theorem registerWritesStoreOrAreIgnored : Obligations.RegisterWritesStoreOrAreIgnored := by
  intro s r v rest hf hcmd hirq ha
  refine ⟨_, step_write_reg hf hcmd ha, ?stored, ?pins, ?others, ?chans, ?engine, ?memory, ?ignored⟩
  case stored =>
    rintro (rfl | rfl | ⟨c, rfl | rfl⟩)
    · rfl
    · rfl
    · exact readReg_storeReg_cfgRate _ c v
    · exact readReg_storeReg_cfgBufsz _ c v
  case pins =>
    rintro ⟨c, rfl⟩
    exact readReg_storeReg_cfgPins _ c v
  case others =>
    intro r' h
    rw [readReg_storeReg_ne v hirq h, readReg_with_agenda]
  case chans =>
    intro c
    rw [storeReg_chan, if_neg hirq, State.chan_with_agenda]
  case engine => cases r <;> rfl
  case memory => cases r <;> rfl
  case ignored =>
    rintro (rfl | rfl | rfl | rfl | ⟨c, rfl | rfl | rfl | rfl | rfl⟩) <;> rfl

/-! ## The status words (R34, R37, R40, R300) -/

theorem statusWord_toNat (s : State) : (statusWord s).toNat =
    s.rd.busy.toNat + 2 * s.lost.toNat + 4 * s.fault.toNat + 256 * s.err.code.toNat := by
  simp only [statusWord, toNat_append_eq, BitVec.toNat_ofBool, BitVec.toNat_ofNat]
  omega

theorem irqStatWord_toNat (s : State) : (irqStatWord s).toNat =
    (s.chan 0).readyPend.toNat + 2 * (s.chan 1).readyPend.toNat + 4 * (s.chan 2).readyPend.toNat +
      256 * (s.chan 0).ovr.toNat + 512 * (s.chan 1).ovr.toNat + 1024 * (s.chan 2).ovr.toNat := by
  simp only [irqStatWord, toNat_append_eq, BitVec.toNat_ofBool, BitVec.toNat_ofNat]
  omega

theorem chStatWord_toNat (s : State) (c : Chan) : (chStatWord s c).toNat =
    (s.chan c).lstate.code.toNat + 4 * (s.chan c).w.val + 8 * (s.chan c).r.val +
      16 * (s.chan c).dmaPend.toNat + 32 * (s.chan c).dmaArmed.toNat + 64 * (s.chan c).readyEn.toNat +
      128 * (s.chan c).capEn.toNat + 256 * (s.chan c).dmaIrqEn.toNat + 512 * s.lineEn.toNat := by
  have hw := (s.chan c).w.isLt
  have hr := (s.chan c).r.isLt
  simp only [chStatWord, toNat_append_eq, BitVec.toNat_ofBool, BitVec.toNat_ofNat]
  omega

/-- Settles O45. -/
theorem statusWordsHoldTheirFields : Obligations.StatusWordsHoldTheirFields := by
  intro s c
  refine ⟨statusWord_toNat s, irqStatWord_toNat s, chStatWord_toNat s c,
    ⟨rfl, rfl, rfl, rfl, rfl, rfl, rfl, rfl, rfl, rfl⟩, ⟨rfl, rfl, rfl⟩, ?registers, rfl, rfl, rfl⟩
  case registers =>
    exact ⟨rfl, rfl, rfl, rfl, rfl, toNat_zero_append 8 _, rfl, toNat_zero_append 16 _, toNat_zero_append 16 _,
      toNat_zero_append 16 _⟩

/-! ## Reset (R59) -/

@[simp] theorem resetBlock_chan (s : State) (c : Chan) : (resetBlock s).chan c = Channel.reset :=
  (State.chan_congr rfl c).trans (State.reset_chan c)

@[simp] theorem resetBlock_stage (s : State) (c : Chan) : (resetBlock s).stage c = Staging.reset :=
  (State.stage_congr rfl c).trans (State.reset_stage c)

/-- A reset of the reset state opens no range and keeps what was nothing. -/
theorem resetBlock_reset : resetBlock State.reset = State.reset := rfl

theorem readReg_resetBlock (s : State) (r : Reg) : readReg (resetBlock s) r = 0#32 := by
  cases r with
  | status => exact BitVec.eq_of_toNat_eq (statusWord_toNat _)
  | irqStat => exact BitVec.eq_of_toNat_eq (by rw [readReg, irqStatWord_toNat]; simp only [resetBlock_chan]; rfl)
  | chStat c => exact BitVec.eq_of_toNat_eq (by rw [readReg, chStatWord_toNat]; simp only [resetBlock_chan]; rfl)
  | cfgRate c | cfgBufsz c | cfgPins c => simp only [readReg, resetBlock_stage]; rfl
  | pendCount c | filtMaxv c | filtGain c | filtVol c => simp only [readReg, resetBlock_chan]; rfl
  | _ => rfl

theorem resetBlock_atResetValues (s : State) : (resetBlock s).atResetValues :=
  ⟨readReg_resetBlock s, rfl, rfl, rfl, rfl, rfl, resetBlock_chan s⟩

/-- Settles O39: a reset move is `resetBlock`, and it leaves the reset state as it is. -/
theorem resetLeavesTheStatedValues : Obligations.ResetLeavesTheStatedValues :=
  ⟨resetBlock_reset ▸ resetBlock_atResetValues State.reset, fun _ _ ha =>
    ⟨_, step_of_agenda ha, resetBlock_atResetValues _, rfl, rfl⟩⟩

end Sys2Proof.Machine
end

section
/-!
PROOFS. What a step can do, said once: the effect of a command on the state, the effect of a step on the state, and
the effect of a step on one channel. Each is tied to `ruleOf` or `step` by an inversion lemma.
-/

namespace Sys2Proof.Machine

/-! ## The effect of a command's rule -/

/-- What the rule of command `i` on channel `c` can leave of the state `s` (R140 to R148, R180 to R183, R202, R230). -/
inductive CommandEffect (s : State) (c : Chan) : Instr → State → Prop
  /-- Only a result is reported; a failed INIT has used up some of the environment's answers. -/
  | reported (i : Instr) (e : ErrCode) (v : Word) (answers : List Bool) (draws : Nat) :
      CommandEffect s c i (report e v { s with answers := answers, draws := draws })
  | initialised (ch : BitVec 2) (cfg : ChanConfig) (answers : List Bool) (draws : Nat)
      (hstate : (s.chan c).lstate = .uninit) (hvalid : cfg.valid = true) :
      CommandEffect s c (.init ch) (finish (programCapture c cfg
        (({ s with answers := answers, draws := draws } : State).setChan c (initialisedChannel cfg))))
  | tornDown (ch : BitVec 2) (hstate : (s.chan c).lstate ≠ .uninit) :
      CommandEffect s c (.deinit ch)
        (finish { s.setChan c Channel.reset with lineEn := s.lineEn && othersIrq c s })
  | started (ch : BitVec 2) (hstate : (s.chan c).lstate = .idle) :
      CommandEffect s c (.start ch) (finish { s.setChan c (startedChannel (s.chan c)) with lineEn := true })
  | stopped (ch : BitVec 2) (hstate : (s.chan c).lstate = .active) :
      CommandEffect s c (.stop ch)
        (finish { s.setChan c { (s.chan c).halt with lstate := .idle } with lineEn := s.lineEn && othersIrq c s })
  /-- A setter: the ready enable, a filter parameter or the volume. -/
  | configured (i : Instr) (en : Bool) (fp : FilterParams) (vol : Half) (hsetter : ∃ f, ruleOf i = setter f)
      (hstate : (s.chan c).lstate ≠ .uninit) :
      CommandEffect s c i (finish (s.setChan c { s.chan c with readyEn := en, fp := fp, vol := vol }))
  | acknowledged (ch : BitVec 2) (hstate : (s.chan c).lstate ≠ .uninit) :
      CommandEffect s c (.ack ch)
        (report .ok (s.chan c).pendCount (s.setChan c { s.chan c with pendCount := 0#32 }))
  /-- A READ of no samples. -/
  | consumed (ch : BitVec 2) (hnone : sampleCount (s.chan c).cfg s.arg1 = 0) (hstate : (s.chan c).lstate ≠ .uninit)
      (haligned : s.arg0.getLsbD 0 = false) (hpublished : (s.chan c).r ≠ (s.chan c).w) :
      CommandEffect s c (.read ch) (consumeBuffer c s)
  | readBegun (ch : BitVec 2) (n : Nat) (hn : n = sampleCount (s.chan c).cfg s.arg1)
      (hstate : (s.chan c).lstate ≠ .uninit) (haligned : s.arg0.getLsbD 0 = false)
      (hrange : s.arg0.toNat + 2 * n ≤ 2 ^ 32) (hpublished : (s.chan c).r ≠ (s.chan c).w) (hsome : n ≠ 0) :
      CommandEffect s c (.read ch) { consumeBuffer c s with
        rd := { busy := true, ch := c, buf := (s.chan c).r, addr := s.arg0, n := n, k := 0 } }

namespace CommandEffect

variable {s : State} {c : Chan}

theorem of_raise (i : Instr) (e : ErrCode) : CommandEffect s c i (raise e s) := .reported i e 0#32 s.answers s.draws

theorem of_finish (i : Instr) : CommandEffect s c i (finish s) := .reported i .ok 0#32 s.answers s.draws

theorem of_init (ch : BitVec 2) : CommandEffect s c (.init ch) (initChannel c s) := by
  rcases initChannel_cases c s with ⟨-, e⟩ | ⟨-, -, e⟩ | ⟨hu, hv, e⟩
  · exact e ▸ of_raise _ _
  · exact e ▸ of_raise _ _
  · obtain ⟨answers, draws, e' | e' | e'⟩ := acquire_cases c (stagedConfig (s.stage c)) s
    · exact e ▸ e' ▸ .reported _ _ _ _ _
    · exact e ▸ e' ▸ .reported _ _ _ _ _
    · exact e ▸ e' ▸ .initialised ch _ _ _ hu hv

theorem of_deinit (ch : BitVec 2) : CommandEffect s c (.deinit ch) (deinitChannel c s) := by
  by_cases h : (s.chan c).lstate = .uninit
  · exact deinitChannel_uninit h ▸ of_finish _
  · exact deinitChannel_held h ▸ .tornDown ch h

theorem of_start (ch : BitVec 2) : CommandEffect s c (.start ch) (startChannel c s) := by
  by_cases h : (s.chan c).lstate = .idle
  · exact startChannel_idle h ▸ .started ch h
  · exact startChannel_refused h ▸ of_raise _ _

theorem of_stop (ch : BitVec 2) : CommandEffect s c (.stop ch) (stopChannel false c s) := by
  cases h : (s.chan c).lstate with
  | uninit => exact stopChannel_uninit false h ▸ of_raise _ _
  | idle => exact stopChannel_idle false h ▸ of_finish _
  | active => exact stopChannel_active h ▸ .stopped ch h

/-- A setter whose change is one of the ready enable, the filter parameters and the volume. -/
theorem of_setter (i : Instr) (f : Channel → Channel) (en : Bool) (fp : FilterParams) (vol : Half)
    (hrule : ruleOf i = setter f) (hf : f (s.chan c) = { s.chan c with readyEn := en, fp := fp, vol := vol }) :
    CommandEffect s c i (setter f c s) := by
  rcases setter_cases f c s with ⟨-, e⟩ | ⟨hheld, e⟩
  · exact e ▸ of_raise _ _
  · rw [e, State.modChan, hf]
    exact .configured i en fp vol ⟨f, hrule⟩ hheld

theorem of_read (ch : BitVec 2) : CommandEffect s c (.read ch) (readChannel c s) := by
  rcases readChannel_cases c s with ⟨-, e⟩ | ⟨hheld, ⟨-, e⟩ | ⟨haligned, ⟨-, e⟩ | ⟨hrange, hread⟩⟩⟩
  · exact e ▸ of_raise _ _
  · exact e ▸ of_raise _ _
  · exact e ▸ of_raise _ _
  · rcases hread with ⟨-, e⟩ | ⟨hpub, ⟨hnone, e⟩ | ⟨hn, e⟩⟩
    · exact e ▸ of_finish _
    · exact e ▸ .consumed ch hnone hheld haligned hpub
    · exact e ▸ .readBegun ch _ rfl hheld haligned hrange hpub hn

theorem of_ack (ch : BitVec 2) : CommandEffect s c (.ack ch) (ackChannel c s) := by
  rcases ackChannel_cases c s with ⟨-, e⟩ | ⟨hheld, e⟩
  · exact e ▸ of_raise _ _
  · exact e ▸ .acknowledged ch hheld

/-- Everything a command's rule can do. -/
theorem of_ruleOf (i : Instr) : CommandEffect s c i (ruleOf i c s) := by
  cases i with
  | init ch => exact of_init ch
  | deinit ch => exact of_deinit ch
  | start ch => exact of_start ch
  | stop ch => exact of_stop ch
  | setrdy ch en => exact of_setter _ _ en _ _ rfl rfl
  | setmaxv ch imm => exact of_setter _ _ _ { (s.chan c).fp with maxv := imm } _ rfl rfl
  | setgain ch imm => exact of_setter _ _ _ { (s.chan c).fp with gain := imm } _ rfl rfl
  | setvol ch imm => exact of_setter _ _ _ _ imm rfl rfl
  | read ch => exact of_read ch
  | ack ch => exact of_ack ch

end CommandEffect

/-! ## The effect of a step -/

/-- What a move of the agents can leave of the state `s` (R84, R203, R208, R250, R251, R302, R340). -/
inductive StepEffect (s : State) : Event → State → Prop
  | reset : StepEffect s .reset (resetBlock s)
  /-- A CMD write while a READ is in progress. -/
  | dropped (w : Word) (hf : s.fault = false) (hbusy : s.rd.busy = true) :
      StepEffect s (.write 0x00 4 w) { s with lost := true }
  /-- An accepted word that is no command, or whose CH is 3. -/
  | rejected (w : Word) (e : ErrCode) (ha : s.accepting) : StepEffect s (.write 0x00 4 w) (reportOnly e s)
  | command (w : Word) (i : Instr) (c : Chan) (t : State) (ha : s.accepting) (hdec : decode w = .instr i)
      (hch : chanOf i.ch = some c) (heff : CommandEffect { s with lost := false } c i t) :
      StepEffect s (.write 0x00 4 w) t
  | stored (r : Reg) (v : Word) (hf : s.fault = false) (hreg : r ≠ .cmd) :
      StepEffect s (.write r.offset 4 v) (storeReg s r v)
  | loaded (r : Reg) (hf : s.fault = false) : StepEffect s (.read r.offset 4) { s with hostData := readReg s r }
  /-- A move of an agent whose step is not enabled (log 3). -/
  | disabled (e : Event) (he : e = .irq ∨ e = .chunk ∨ ∃ c v, e = .dma c v) (hf : s.fault = false) :
      StepEffect s e s
  | captured (c : Chan) (v : Byte) (hf : s.fault = false) (hcap : (s.chan c).capturing = true) :
      StepEffect s (.dma c v) (s.setChan c ((s.chan c).dmaByte v))
  | completed (c : Chan) (hf : s.fault = false) (hline : s.lineEn = true) (hdue : dueChannel s = some c) :
      StepEffect s .irq (serviceCompletion c s)
  | busFaulted (hf : s.fault = false) (hbusy : s.rd.busy = true)
      (hadm : chunkAdmitted Config.hostWritable s = false) : StepEffect s .chunk (enterBusFault s)
  | decoded (hf : s.fault = false) (hbusy : s.rd.busy = true) (hadm : chunkAdmitted Config.hostWritable s = true) :
      StepEffect s .chunk (performChunk s)
  | hostStored (a : Addr) (v : Byte) (hf : s.fault = false) : StepEffect s (.memStore a v) (hostStore a v s)
  | hostLoaded (a : Addr) (draws : Nat) (v : Word) (hf : s.fault = false) :
      StepEffect s (.memLoad a) { s with draws := draws, hostData := v }

namespace StepEffect

variable {s t : State}

theorem of_exec {w : Word} {i : Instr} (hdec : decode w = .instr i) (h : exec i s = .next t) :
    StepEffect s (.write 0x00 4 w) t := by
  rw [exec_eq_command] at h
  rcases command_next h with ⟨hf, hbusy, rfl⟩ | ⟨ha, -, rfl⟩ | ⟨ha, c, hch, rfl⟩
  · exact .dropped w hf hbusy
  · exact .rejected w _ ha
  · exact .command w i c _ ha hdec hch (.of_ruleOf i)

theorem of_issue {w : Word} (h : issue w s = .next t) : StepEffect s (.write 0x00 4 w) t := by
  cases hdec : decode w with
  | instr i => exact of_exec hdec (issue_instr hdec s ▸ h)
  | illegal e =>
    rcases accept_next (issue_illegal hdec s ▸ h) with ⟨hf, hbusy, rfl⟩ | ⟨ha, rfl⟩
    · exact .dropped w hf hbusy
    · exact .rejected w .illegalCommand ha

theorem of_hostWrite {off size : Nat} {v : Word} (hf : s.fault = false) (h : hostWrite off size v s = .next t) :
    StepEffect s (.write off size v) t := by
  rcases hostWrite_next h with ⟨hreg, h⟩ | ⟨r, hreg, hne, rfl⟩
  · obtain ⟨rfl, rfl⟩ := (regAt_eq_ok_iff _ _ _).1 hreg
    exact of_issue h
  · obtain ⟨rfl, rfl⟩ := (regAt_eq_ok_iff _ _ _).1 hreg
    exact .stored r v hf hne

theorem of_hostRead {off size : Nat} (hf : s.fault = false) (h : hostRead off size s = .next t) :
    StepEffect s (.read off size) t := by
  obtain ⟨r, hreg, rfl⟩ := hostRead_next h
  obtain ⟨rfl, rfl⟩ := (regAt_eq_ok_iff _ _ _).1 hreg
  exact .loaded r hf

theorem of_dma (hf : s.fault = false) (c : Chan) (v : Byte) : StepEffect s (.dma c v) (dmaStep c v s) := by
  rcases dmaStep_cases c v s with ⟨-, e⟩ | ⟨hcap, e⟩
  · rw [e]; exact .disabled _ (.inr (.inr ⟨c, v, rfl⟩)) hf
  · exact e ▸ .captured c v hf hcap

theorem of_handler (hf : s.fault = false) : StepEffect s .irq (handlerStep s) := by
  rcases handlerStep_cases s with ⟨-, e⟩ | ⟨hline, c, hdue, e⟩
  · rw [e]; exact .disabled _ (.inl rfl) hf
  · exact e ▸ .completed c hf hline hdue

theorem of_chunk (hf : s.fault = false) : StepEffect s .chunk (chunkStep Config.hostWritable s) := by
  rcases chunkStep_cases Config.hostWritable s with ⟨-, e⟩ | ⟨hbusy, hadm, e⟩ | ⟨hbusy, hadm, e⟩
  · rw [e]; exact .disabled _ (.inr (.inl rfl)) hf
  · exact e ▸ .busFaulted hf hbusy hadm
  · exact e ▸ .decoded hf hbusy hadm

theorem of_hostLoad (hf : s.fault = false) (a : Addr) : StepEffect s (.memLoad a) (hostLoad a s) := by
  rcases hostLoad_cases a s with ⟨-, e⟩ | ⟨-, e⟩
  · exact e ▸ .hostLoaded a _ _ hf
  · exact e ▸ .hostLoaded a s.draws _ hf

/-- Everything a move that answers a next state can have done. -/
theorem of_runEvent {e : Event} (h : runEvent e s = .next t) : StepEffect s e t := by
  rcases runEvent_next h with ⟨rfl, rfl⟩ | ⟨hf, hmove⟩
  · exact .reset
  · rcases hmove with ⟨off, size, v, rfl, hwrite⟩ | ⟨off, size, rfl, hread⟩ | ⟨c, v, rfl, rfl⟩ | ⟨rfl, rfl⟩ |
      ⟨rfl, rfl⟩ | ⟨a, v, rfl, rfl⟩ | ⟨a, rfl, rfl⟩
    · exact of_hostWrite hf hwrite
    · exact of_hostRead hf hread
    · exact of_dma hf c v
    · exact of_handler hf
    · exact of_chunk hf
    · exact .hostStored a v hf
    · exact of_hostLoad hf a

/-- Everything a step that answers a next state can have done; taking the move off the list changes the model's own
fields only. -/
theorem of_step (h : step s = .next t) :
    ∃ agenda draws, StepEffect { s with agenda := agenda, draws := draws } (takeEvent s).1 t := by
  obtain ⟨agenda, draws, htake⟩ := takeEvent_spec s
  exact ⟨agenda, draws, of_runEvent (htake ▸ h)⟩

end StepEffect

/-! ## The effect of a step on one channel -/

/-- What a command with channel field `c` can leave of `ch[c] = x`. -/
inductive CommandChannelEffect (x : Channel) : Instr → Channel → Prop
  | unchanged (i : Instr) : CommandChannelEffect x i x
  | initialised (ch : BitVec 2) (cfg : ChanConfig) : CommandChannelEffect x (.init ch) (initialisedChannel cfg)
  | tornDown (ch : BitVec 2) : CommandChannelEffect x (.deinit ch) Channel.reset
  | started (ch : BitVec 2) : CommandChannelEffect x (.start ch) (startedChannel x)
  | stopped (ch : BitVec 2) : CommandChannelEffect x (.stop ch) { x.halt with lstate := .idle }
  | configured (i : Instr) (en : Bool) (fp : FilterParams) (vol : Half) :
      CommandChannelEffect x i { x with readyEn := en, fp := fp, vol := vol }
  | acknowledged (ch : BitVec 2) : CommandChannelEffect x (.ack ch) { x with pendCount := 0#32 }
  | consumed (ch : BitVec 2) : CommandChannelEffect x (.read ch) { x with r := x.r + 1 }

/-- What a move can leave of `ch[c] = x`. -/
inductive ChannelEffect (c : Chan) (x : Channel) : Event → Channel → Prop
  | unchanged (e : Event) : ChannelEffect c x e x
  | reset : ChannelEffect c x .reset Channel.reset
  | command (w : Word) (i : Instr) (y : Channel) (hdec : decode w = .instr i) (hch : chanOf i.ch = some c)
      (heff : CommandChannelEffect x i y) : ChannelEffect c x (.write 0x00 4 w) y
  | irqCleared (v : Word) : ChannelEffect c x (.write 0x14 4 v) (x.clearIrqBits v c)
  | captured (v : Byte) : ChannelEffect c x (.dma c v) (x.dmaByte v)
  /-- A completion is serviced; the overrun flag can rise. -/
  | completed (hdue : x.completionDue = true) (lost : Bool) : ChannelEffect c x .irq
      { x.swap with ovr := x.ovr || lost, pendCount := x.pendCount + 1#32, readyPend := x.readyPend || x.readyEn }
  | decoded (st : FState) : ChannelEffect c x .chunk { x with frs := some st }

/-- A channel written as it is changes nothing. -/
theorem State.setChan_chan (s : State) (c : Chan) : s.setChan c (s.chan c) = s := by
  simp [State.setChan, State.chan]

/-- A command writes its own channel and no other (R321). -/
theorem CommandEffect.chans {s t : State} {c : Chan} {i : Instr} (h : CommandEffect s c i t) :
    ∃ y, CommandChannelEffect (s.chan c) i y ∧ t.chans = (s.setChan c y).chans := by
  cases h with
  | reported i => exact ⟨_, .unchanged i, (congrArg State.chans (s.setChan_chan c)).symm⟩
  | initialised ch cfg => exact ⟨_, .initialised ch cfg, rfl⟩
  | tornDown ch => exact ⟨_, .tornDown ch, rfl⟩
  | started ch => exact ⟨_, .started ch, rfl⟩
  | stopped ch => exact ⟨_, .stopped ch, rfl⟩
  | configured i en fp vol => exact ⟨_, .configured i en fp vol, rfl⟩
  | acknowledged ch => exact ⟨_, .acknowledged ch, rfl⟩
  | consumed ch => exact ⟨_, .consumed ch, rfl⟩
  | readBegun ch => exact ⟨_, .consumed ch, rfl⟩

theorem CommandEffect.chan {s t : State} {c : Chan} {i : Instr} (h : CommandEffect s c i t) :
    CommandChannelEffect (s.chan c) i (t.chan c) := by
  obtain ⟨y, hy, hchans⟩ := h.chans
  rwa [State.chan_congr hchans, State.chan_setChan_self]

theorem CommandEffect.others {s t : State} {c : Chan} {i : Instr} (h : CommandEffect s c i t) :
    otherChannels c s t := by
  obtain ⟨y, -, hchans⟩ := h.chans
  exact fun d hd => (State.chan_congr hchans d).trans (State.chan_setChan_ne s y hd)

/-- A move's effect on every channel. -/
theorem StepEffect.chan {s t : State} {e : Event} (h : StepEffect s e t) (d : Chan) :
    ChannelEffect d (s.chan d) e (t.chan d) := by
  cases h with
  | reset => exact resetBlock_chan s d ▸ .reset
  | dropped | rejected | loaded | disabled | busFaulted | hostStored | hostLoaded => exact .unchanged _
  | command w i c t ha hdec hch heff =>
    by_cases hd : d = c
    · subst hd; exact .command w i _ hdec hch heff.chan
    · rw [heff.others d hd]; exact .unchanged _
  | stored r v =>
    rw [storeReg_chan]
    split
    · subst r; exact .irqCleared v
    · exact .unchanged _
  | captured c v =>
    by_cases hd : d = c
    · subst hd; simpa using .captured v
    · rw [State.chan_setChan_ne _ _ hd]; exact .unchanged _
  | completed c hf hline hdue =>
    by_cases hd : d = c
    · subst hd; rw [serviceCompletion_chan]; exact .completed (dueChannel_some hdue).1 _
    · rw [serviceCompletion, State.chan_modChan_ne _ _ hd]; exact .unchanged _
  | decoded =>
    obtain ⟨-, hself, hothers, -⟩ := performChunk_spec s
    by_cases hd : d = s.rd.ch
    · subst hd; rw [hself]; exact .decoded _
    · rw [hothers d hd]; exact .unchanged _

/-- A step's effect on every channel. -/
theorem channelEffect_of_step {s t : State} (h : step s = .next t) (c : Chan) :
    ChannelEffect c (s.chan c) (takeEvent s).1 (t.chan c) := by
  obtain ⟨_, _, heff⟩ := StepEffect.of_step h
  exact heff.chan c

/-! ## The writers of a channel's registers (R41, R45, R58) -/

/-- A completion counts, ACK and a channel's beginning anew clear, and nothing else writes the counter (R41). -/
theorem ChannelEffect.counter {c : Chan} {x y : Channel} {e : Event} (h : ChannelEffect c x e y)
    (hne : y.pendCount ≠ x.pendCount) :
    (e = .irq ∧ x.dmaPend = true ∧ y.pendCount = x.pendCount + 1#32) ∨
    (y.pendCount = 0#32 ∧ (e = .reset ∨ ∃ (w : Word) (ch : BitVec 2), e = .write 0x00 4 w ∧ chanOf ch = some c ∧
      (decode w = .instr (.ack ch) ∨ decode w = .instr (.init ch) ∨ decode w = .instr (.start ch) ∨
        decode w = .instr (.deinit ch)))) := by
  cases h with
  | unchanged | irqCleared | decoded => exact absurd rfl hne
  | captured => exact absurd (Channel.dmaByte_pendCount _ _) hne
  | reset => exact .inr ⟨rfl, .inl rfl⟩
  | completed hdue =>
    obtain ⟨hpend, -⟩ := Bool.and_eq_true_iff.1 hdue
    exact .inl ⟨rfl, hpend, rfl⟩
  | command w i y hdec hch hcmd =>
    cases hcmd with
    | unchanged | stopped | configured | consumed => exact absurd rfl hne
    | initialised ch => exact .inr ⟨rfl, .inr ⟨w, ch, rfl, hch, .inr (.inl hdec)⟩⟩
    | started ch =>
      exact .inr ⟨startedChannel_pendCount _, .inr ⟨w, ch, rfl, hch, .inr (.inr (.inl hdec))⟩⟩
    | tornDown ch => exact .inr ⟨rfl, .inr ⟨w, ch, rfl, hch, .inr (.inr (.inr hdec))⟩⟩
    | acknowledged ch => exact .inr ⟨rfl, .inr ⟨w, ch, rfl, hch, .inl hdec⟩⟩

/-- Settles O51. -/
theorem pendCountChangesOnlyAsStated : Obligations.PendCountChangesOnlyAsStated := fun _ _ c h =>
  (channelEffect_of_step h c).counter

/-- Move `e` is the host's command INIT, START or DEINIT of channel `c`, which begin the channel anew. -/
def restartCommand (c : Chan) (e : Event) : Prop :=
  ∃ (w : Word) (ch : BitVec 2), e = .write 0x00 4 w ∧ chanOf ch = some c ∧
    (decode w = .instr (.init ch) ∨ decode w = .instr (.start ch) ∨ decode w = .instr (.deinit ch))

theorem restartCommand_of_init {c : Chan} {w : Word} {ch : BitVec 2} (hch : chanOf ch = some c)
    (hdec : decode w = .instr (.init ch)) : restartCommand c (.write 0x00 4 w) :=
  ⟨w, ch, rfl, hch, .inl hdec⟩

theorem restartCommand_of_start {c : Chan} {w : Word} {ch : BitVec 2} (hch : chanOf ch = some c)
    (hdec : decode w = .instr (.start ch)) : restartCommand c (.write 0x00 4 w) :=
  ⟨w, ch, rfl, hch, .inr (.inl hdec)⟩

theorem restartCommand_of_deinit {c : Chan} {w : Word} {ch : BitVec 2} (hch : chanOf ch = some c)
    (hdec : decode w = .instr (.deinit ch)) : restartCommand c (.write 0x00 4 w) :=
  ⟨w, ch, rfl, hch, .inr (.inr hdec)⟩

/-- The write index moves on at a completion, and else only returns to 0 (R45). -/
theorem ChannelEffect.writeIndex {c : Chan} {x y : Channel} {e : Event} (h : ChannelEffect c x e y)
    (hne : y.w ≠ x.w) :
    (e = .irq ∧ y.w = x.w + 1) ∨ (y.w = 0 ∧ (e = .reset ∨ restartCommand c e)) := by
  cases h with
  | unchanged | irqCleared | decoded => exact absurd rfl hne
  | captured => exact absurd (Channel.dmaByte_w _ _) hne
  | reset => exact .inr ⟨rfl, .inl rfl⟩
  | completed => exact .inl ⟨rfl, Channel.swap_w x⟩
  | command w i y hdec hch hcmd =>
    cases hcmd with
    | unchanged | stopped | configured | acknowledged | consumed => exact absurd rfl hne
    | initialised => exact .inr ⟨rfl, .inr (restartCommand_of_init hch hdec)⟩
    | started => exact .inr ⟨startedChannel_w x, .inr (restartCommand_of_start hch hdec)⟩
    | tornDown => exact .inr ⟨rfl, .inr (restartCommand_of_deinit hch hdec)⟩

/-- The read index is set by a completion and moved on by READ, and else only returns to 0 (R45, R102). -/
theorem ChannelEffect.readIndex {c : Chan} {x y : Channel} {e : Event} (h : ChannelEffect c x e y)
    (hne : y.r ≠ x.r) :
    (e = .irq ∧ y.r = x.w) ∨
    (∃ (w : Word) (ch : BitVec 2), e = .write 0x00 4 w ∧ chanOf ch = some c ∧ decode w = .instr (.read ch) ∧
      y.r = x.r + 1) ∨
    (y.r = 0 ∧ (e = .reset ∨ restartCommand c e)) := by
  cases h with
  | unchanged | irqCleared | decoded => exact absurd rfl hne
  | captured => exact absurd (Channel.dmaByte_r _ _) hne
  | reset => exact .inr (.inr ⟨rfl, .inl rfl⟩)
  | completed => exact .inl ⟨rfl, Channel.swap_r x⟩
  | command w i y hdec hch hcmd =>
    cases hcmd with
    | unchanged | stopped | configured | acknowledged => exact absurd rfl hne
    | consumed ch => exact .inr (.inl ⟨w, ch, rfl, hch, hdec, rfl⟩)
    | initialised => exact .inr (.inr ⟨rfl, .inr (restartCommand_of_init hch hdec)⟩)
    | started => exact .inr (.inr ⟨startedChannel_r x, .inr (restartCommand_of_start hch hdec)⟩)
    | tornDown => exact .inr (.inr ⟨rfl, .inr (restartCommand_of_deinit hch hdec)⟩)

/-- Settles O52. -/
theorem indicesHaveTheStatedWriters : Obligations.IndicesHaveTheStatedWriters := fun _ _ c h =>
  ⟨(channelEffect_of_step h c).writeIndex, (channelEffect_of_step h c).readIndex⟩

/-- A notification flag that falls was written with 1, unless its channel began anew (R58, R231, R253). -/
theorem ChannelEffect.notifications {c : Chan} {x y : Channel} {e : Event} (h : ChannelEffect c x e y) :
    e = .reset ∨ restartCommand c e ∨
      ((x.ovr = true → y.ovr = false → ∃ v : Word, e = .write 0x14 4 v ∧ v.getLsbD (8 + c.val) = true) ∧
        (x.readyPend = true → y.readyPend = false → ∃ v : Word, e = .write 0x14 4 v ∧ v.getLsbD c.val = true)) := by
  cases h with
  | reset => exact .inl rfl
  | unchanged | captured | completed | decoded =>
    refine .inr (.inr ⟨fun hx hy => ?_, fun hx hy => ?_⟩) <;> simp [hx] at hy
  | irqCleared v =>
    refine .inr (.inr ⟨fun hx hy => ⟨v, rfl, ?_⟩, fun hx hy => ⟨v, rfl, ?_⟩⟩)
    · simpa [hx] using hy
    · simpa [hx] using hy
  | command w i y hdec hch hcmd =>
    cases hcmd with
    | initialised => exact .inr (.inl (restartCommand_of_init hch hdec))
    | started => exact .inr (.inl (restartCommand_of_start hch hdec))
    | tornDown => exact .inr (.inl (restartCommand_of_deinit hch hdec))
    | unchanged | stopped | configured | acknowledged | consumed =>
      refine .inr (.inr ⟨fun hx hy => ?_, fun hx hy => ?_⟩) <;> simp [hx] at hy

/-- Settles O53. -/
theorem notificationsAreSticky : Obligations.NotificationsAreSticky := by
  intro s t c h
  rcases (channelEffect_of_step h c).notifications with hreset | hrestart | ⟨hovr, hready⟩
  · exact ⟨fun _ _ => .inl hreset, fun _ _ => .inl hreset⟩
  · exact ⟨fun _ _ => .inr (.inr hrestart), fun _ _ => .inr (.inr hrestart)⟩
  · exact ⟨fun hx hy => .inr (.inl (hovr hx hy)), fun hx hy => .inr (.inl (hready hx hy))⟩

end Sys2Proof.Machine
end

section
/-!
PROOFS. The invariant of the block (R44 to R60): each change of a channel keeps the channel invariant, each step keeps
the block's, and so every reachable state has it.
-/

namespace Sys2Proof.Machine

/-! ## Written bytes (R47, R60 (c)) -/

theorem Channel.rawByte?_congr {x y : Channel} (h : y.raw = x.raw) (b : BufIdx) (i : Nat) :
    y.rawByte? b i = x.rawByte? b i := by
  simp [Channel.rawByte?, h]

theorem Channel.writtenBelow_congr {x y : Channel} (h : y.raw = x.raw) {b : BufIdx} {n : Nat}
    (hw : x.writtenBelow b n) : y.writtenBelow b n :=
  fun i hi => Channel.rawByte?_congr h b i ▸ hw i hi

theorem Channel.writtenBelow_zero (x : Channel) (b : BufIdx) : x.writtenBelow b 0 :=
  fun _ hi => absurd hi (Nat.not_lt_zero _)

/-- No byte of a transfer takes a buffer away. -/
theorem Channel.isSome_raw_dmaByte {x : Channel} (v : Byte) {b : BufIdx} (h : (x.raw[b]).isSome = true) :
    ((x.dmaByte v).raw[b]).isSome = true := by
  rw [Channel.dmaByte_raw, Channel.rawWrite_raw]
  split
  · subst b; rwa [Option.isSome_map]
  · exact h

/-- A raw byte after a byte of a transfer (R250). -/
theorem Channel.rawByte?_dmaByte {x : Channel} (v : Byte) (hbuf : (x.raw[x.w]).isSome = true) (b : BufIdx) (i : Nat) :
    (x.dmaByte v).rawByte? b i = if b = x.w ∧ i = x.dmaProg then some v else x.rawByte? b i :=
  (Channel.rawByte?_congr (x.dmaByte_raw v) b i).trans (x.rawByte?_rawWrite x.w b x.dmaProg i v hbuf)

/-- No byte of a transfer unwrites a byte. -/
theorem Channel.writtenBelow_dmaByte {x : Channel} (v : Byte) (hbuf : (x.raw[x.w]).isSome = true) {b : BufIdx} {n : Nat}
    (hw : x.writtenBelow b n) : (x.dmaByte v).writtenBelow b n := by
  intro i hi
  rw [Channel.rawByte?_dmaByte v hbuf]
  split
  · rfl
  · exact hw i hi

/-- The byte of a transfer extends what is written of its buffer by one. -/
theorem Channel.writtenBelow_dmaByte_succ {x : Channel} (v : Byte) (hbuf : (x.raw[x.w]).isSome = true)
    (hw : x.writtenBelow x.w x.dmaProg) : (x.dmaByte v).writtenBelow x.w (x.dmaProg + 1) := by
  intro i hi
  rw [Channel.rawByte?_dmaByte v hbuf]
  by_cases hlast : i = x.dmaProg
  · simp [hlast]
  · simpa [hlast] using hw i (by omega)

/-! ## The channel invariant -/

namespace ChannelInv

variable {x : Channel}

theorem reset : ChannelInv Channel.reset where
  uninitIsReset _ := rfl
  configValid h := absurd rfl h
  rawSizeLatched h := absurd rfl h
  resourcesHeld h := absurd rfl h
  rawCanonical b m h := by fin_cases b <;> cases h
  pendingNotArmed h := nomatch h
  quietUnlessActive _ := ⟨rfl, rfl, rfl, rfl⟩
  activeCaptures h := nomatch h
  armedProgress h := nomatch h
  pendingFilled h := nomatch h
  publishedFilled h := absurd rfl h
  publishedFilter _ := rfl

/-- R60 (b): only an ACTIVE channel captures. -/
theorem active_of_armed (h : ChannelInv x) (ha : x.dmaArmed = true) : x.lstate = .active := by
  by_contra hne
  obtain ⟨-, -, harmed, -⟩ := h.quietUnlessActive hne
  exact absurd (ha.symm.trans harmed) (by decide)

theorem active_of_pending (h : ChannelInv x) (hp : x.dmaPend = true) : x.lstate = .active := by
  by_contra hne
  obtain ⟨-, -, -, hpend⟩ := h.quietUnlessActive hne
  exact absurd (hp.symm.trans hpend) (by decide)

theorem held_of_active (ha : x.lstate = .active) : x.lstate ≠ .uninit := by
  rw [ha]; decide

/-- The settings and the notification fields of a channel that is not UNINIT are under no rule of the invariant. -/
theorem settings (h : ChannelInv x) (hheld : x.lstate ≠ .uninit) (readyEn : Bool) (pendCount : Word)
    (readyPend ovr : Bool) (fp : FilterParams) (vol : Half) :
    ChannelInv { x with readyEn := readyEn, pendCount := pendCount, readyPend := readyPend, ovr := ovr, fp := fp,
                        vol := vol } :=
  { h with uninitIsReset := fun hu => absurd hu hheld }

theorem clearIrqBits (h : ChannelInv x) (v : Word) (c : Chan) : ChannelInv (x.clearIrqBits v c) := by
  by_cases hu : x.lstate = .uninit
  · rw [h.uninitIsReset hu]; exact reset
  · exact h.settings hu _ _ _ _ _ _

/-- A chunk sets the running state (R203). -/
theorem filtered (h : ChannelInv x) (hheld : x.lstate ≠ .uninit) (st : FState) :
    ChannelInv { x with frs := some st } :=
  { h with
    uninitIsReset := fun hu => absurd hu hheld
    activeCaptures := fun ha => by
      obtain ⟨hcap, hirq, hdma, -⟩ := h.activeCaptures ha
      exact ⟨hcap, hirq, hdma, rfl⟩
    publishedFilter := fun hnone => nomatch hnone }

/-- READ consumes the published buffer, after which none is published (R202): there are two buffers. -/
theorem consumed (h : ChannelInv x) (hpub : x.r ≠ x.w) : ChannelInv { x with r := x.r + 1 } := by
  have hnext : x.r + 1 = x.w := by revert hpub; generalize x.r = r; generalize x.w = w; revert r w; decide
  exact { h with
    uninitIsReset := fun hu => absurd (by rw [h.uninitIsReset hu]; rfl) hpub
    publishedFilled := fun hne => absurd hnext hne
    publishedFilter := fun _ => hnext }

/-- INIT (R140). -/
theorem initialised {cfg : ChanConfig} (hvalid : cfg.valid = true) : ChannelInv (initialisedChannel cfg) where
  uninitIsReset h := nomatch h
  configValid _ := hvalid
  rawSizeLatched _ := rfl
  resourcesHeld _ := ⟨rfl, rfl, fun b => by fin_cases b <;> rfl⟩
  rawCanonical b m h := by
    have hm : m = [] := by fin_cases b <;> exact (Option.some.inj h).symm
    subst hm
    exact ⟨List.Pairwise.nil, fun _ hx => absurd hx List.not_mem_nil⟩
  pendingNotArmed h := nomatch h
  quietUnlessActive _ := ⟨rfl, rfl, rfl, rfl⟩
  activeCaptures h := nomatch h
  armedProgress h := nomatch h
  pendingFilled h := nomatch h
  publishedFilled h := absurd rfl h
  publishedFilter _ := rfl

/-- What Arm leaves of a transfer (R147): an empty buffer is pending at once, any other is armed with nothing written
yet. -/
theorem freshTransfer {y : Channel} (hprog : y.dmaProg = 0) (harmed : y.dmaArmed = !decide (y.rawSize = 0))
    (hpend : y.dmaPend = decide (y.rawSize = 0)) :
    (y.dmaPend = true → y.dmaArmed = false) ∧ (y.dmaArmed = true ∨ y.dmaPend = true) ∧
      (y.dmaArmed = true → y.dmaProg < y.rawSize ∧ y.writtenBelow y.w y.dmaProg) ∧
      (y.dmaPend = true → y.writtenBelow y.w y.rawSize) := by
  rw [harmed, hpend, hprog]
  by_cases hz : y.rawSize = 0
  · simp [hz, y.writtenBelow_zero]
  · simp [hz, y.writtenBelow_zero, Nat.pos_of_ne_zero]

/-- START (R146). -/
theorem started (h : ChannelInv x) (hidle : x.lstate = .idle) : ChannelInv (startedChannel x) := by
  have hheld : x.lstate ≠ .uninit := by rw [hidle]; decide
  obtain ⟨hexcl, hdma, hprog, hfilled⟩ := freshTransfer (y := startedChannel x) (by simp) (by simp) (by simp)
  exact
    { uninitIsReset := by simp
      configValid := by simpa using h.configValid hheld
      rawSizeLatched := by simpa using h.rawSizeLatched hheld
      resourcesHeld := by simpa using h.resourcesHeld hheld
      rawCanonical := by simpa using h.rawCanonical
      pendingNotArmed := hexcl
      quietUnlessActive := by simp
      activeCaptures := fun _ => ⟨by simp, by simp, hdma, by simp⟩
      armedProgress := hprog
      pendingFilled := hfilled
      publishedFilled := by simp
      publishedFilter := by simp }

/-- The completion handler's exchange of buffers (R251 (b) to (e)): the buffer it publishes is wholly written. -/
theorem swapped (h : ChannelInv x) (hpend : x.dmaPend = true) : ChannelInv x.swap := by
  have hactive := h.active_of_pending hpend
  have hheld := held_of_active hactive
  obtain ⟨hcap, hirq, -, hfilter⟩ := h.activeCaptures hactive
  obtain ⟨hexcl, hdma, hprog, hfilled⟩ := freshTransfer (y := x.swap) (by simp) (by simp) (by simp)
  exact
    { uninitIsReset := by simp [hheld]
      configValid := by simpa using h.configValid
      rawSizeLatched := by simpa using h.rawSizeLatched
      resourcesHeld := by simpa using h.resourcesHeld
      rawCanonical := by simpa using h.rawCanonical
      pendingNotArmed := hexcl
      quietUnlessActive := by simp [hactive]
      activeCaptures := fun _ => ⟨by simpa using hcap, by simpa using hirq, hdma, by simpa using hfilter⟩
      armedProgress := hprog
      pendingFilled := hfilled
      publishedFilled := fun _ => by
        rw [Channel.swap_r, Channel.swap_rawSize]
        exact Channel.writtenBelow_congr x.swap_raw (h.pendingFilled hpend)
      publishedFilter := fun hnone => by
        rw [Channel.swap_frs] at hnone
        simp [hnone] at hfilter }

/-- The DMA byte step (R250): the byte goes below `raw_size`, and the last one leaves the buffer wholly written. -/
theorem captured (h : ChannelInv x) (hcap : x.capturing = true) (v : Byte) : ChannelInv (x.dmaByte v) := by
  obtain ⟨harmed, -⟩ := Bool.and_eq_true_iff.1 hcap
  have hactive := h.active_of_armed harmed
  have hheld := held_of_active hactive
  obtain ⟨-, -, hbufs⟩ := h.resourcesHeld hheld
  obtain ⟨hroom, hsofar⟩ := h.armedProgress harmed
  have hpend : x.dmaPend = false := by
    by_contra hp
    exact absurd (harmed.symm.trans (h.pendingNotArmed (by simpa using hp))) (by decide)
  have hnext := Channel.writtenBelow_dmaByte_succ v (hbufs x.w) hsofar
  exact
    { uninitIsReset := by simp [hheld]
      configValid := by simpa using h.configValid
      rawSizeLatched := by simpa using h.rawSizeLatched
      resourcesHeld := fun _ => by
        obtain ⟨hheldBuf, hheldDma, hbufs⟩ := h.resourcesHeld hheld
        exact ⟨by simpa using hheldBuf, by simpa using hheldDma, fun b => Channel.isSome_raw_dmaByte v (hbufs b)⟩
      rawCanonical := by
        intro b m hm
        rw [Channel.dmaByte_raw, Channel.rawWrite_raw] at hm
        rw [Channel.dmaByte_rawSize]
        split at hm
        · obtain ⟨m', hm', rfl⟩ := Option.map_eq_some_iff.1 hm
          obtain ⟨hsorted, hbelow⟩ := h.rawCanonical _ m' hm'
          exact ⟨Memory.sorted_write _ v hsorted, Memory.below_write _ v hroom hbelow⟩
        · exact h.rawCanonical b m hm
      pendingNotArmed := by simp [harmed, hpend]
      quietUnlessActive := by simp [hactive]
      activeCaptures := by
        obtain ⟨hcap, hirq, -, hfilter⟩ := h.activeCaptures hactive
        by_cases hlast : x.dmaProg + 1 = x.rawSize <;> simp [hcap, hirq, hfilter, harmed, hlast]
      armedProgress := by
        simp only [Channel.dmaByte_dmaArmed, Channel.dmaByte_dmaProg, Channel.dmaByte_rawSize, Channel.dmaByte_w]
        intro hmore
        have hne : x.dmaProg + 1 ≠ x.rawSize := by simpa [harmed] using hmore
        exact ⟨by omega, hnext⟩
      pendingFilled := by
        simp only [Channel.dmaByte_dmaPend, Channel.dmaByte_rawSize, Channel.dmaByte_w]
        intro hdone
        have hlast : x.dmaProg + 1 = x.rawSize := by simpa [hpend] using hdone
        exact hlast ▸ hnext
      publishedFilled := by
        simp only [Channel.dmaByte_r, Channel.dmaByte_w, Channel.dmaByte_rawSize]
        exact fun hpub => Channel.writtenBelow_dmaByte v (hbufs x.w) (h.publishedFilled hpub)
      publishedFilter := by simpa using h.publishedFilter }

/-- STOP (R148). -/
theorem stopped (h : ChannelInv x) (hactive : x.lstate = .active) : ChannelInv { x.halt with lstate := .idle } :=
  have hheld := held_of_active hactive
  { uninitIsReset := fun hu => nomatch hu
    configValid := fun _ => h.configValid hheld
    rawSizeLatched := fun _ => h.rawSizeLatched hheld
    resourcesHeld := fun _ => h.resourcesHeld hheld
    rawCanonical := h.rawCanonical
    pendingNotArmed := fun hp => nomatch hp
    quietUnlessActive := fun _ => ⟨rfl, rfl, rfl, rfl⟩
    activeCaptures := fun ha => nomatch ha
    armedProgress := fun ha => nomatch ha
    pendingFilled := fun hp => nomatch hp
    publishedFilled := h.publishedFilled
    publishedFilter := h.publishedFilter }

end ChannelInv

/-! ## The read engine's invariant -/

/-- What a READ in progress reads of its channel is kept: the configuration, and what is set or written stays so. -/
structure KeepsReadOperands (x y : Channel) : Prop where
  lstate : y.lstate = x.lstate
  cfg : y.cfg = x.cfg
  rawSize : y.rawSize = x.rawSize
  filter : x.frs.isSome = true → y.frs.isSome = true
  written : ∀ b n, x.writtenBelow b n → y.writtenBelow b n

namespace KeepsReadOperands

variable {x : Channel}

theorem refl (x : Channel) : KeepsReadOperands x x := ⟨rfl, rfl, rfl, id, fun _ _ => id⟩

theorem clearIrqBits (v : Word) (c : Chan) : KeepsReadOperands x (x.clearIrqBits v c) :=
  ⟨rfl, rfl, rfl, id, fun _ _ => id⟩

theorem filtered (st : FState) : KeepsReadOperands x { x with frs := some st } :=
  ⟨rfl, rfl, rfl, fun _ => rfl, fun _ _ => id⟩

theorem captured (h : ChannelInv x) (hcap : x.capturing = true) (v : Byte) : KeepsReadOperands x (x.dmaByte v) := by
  obtain ⟨harmed, -⟩ := Bool.and_eq_true_iff.1 hcap
  obtain ⟨-, -, hbufs⟩ := h.resourcesHeld (ChannelInv.held_of_active (h.active_of_armed harmed))
  exact ⟨x.dmaByte_lstate v, x.dmaByte_cfg v, x.dmaByte_rawSize v, by simp,
    fun _ _ => Channel.writtenBelow_dmaByte v (hbufs x.w)⟩

theorem swapped (ovr : Bool) (pendCount : Word) (readyPend : Bool) :
    KeepsReadOperands x { x.swap with ovr := ovr, pendCount := pendCount, readyPend := readyPend } :=
  ⟨x.swap_lstate, x.swap_cfg, x.swap_rawSize, by simp, fun _ _ => Channel.writtenBelow_congr x.swap_raw⟩

end KeepsReadOperands

theorem ChanConfig.valid_iff (cfg : ChanConfig) :
    cfg.valid = true ↔ strideOf cfg.rate ≠ 0 ∧ cfg.bufsz.toNat % strideOf cfg.rate = 0 := by
  simp [ChanConfig.valid]

/-- R201: a READ decodes a whole number of chunks. -/
theorem sampleCount_mod_stride {cfg : ChanConfig} (hvalid : cfg.valid = true) (max : Word) :
    sampleCount cfg max % strideOf cfg.rate = 0 := by
  obtain ⟨-, hbufsz⟩ := (ChanConfig.valid_iff cfg).1 hvalid
  rcases Nat.le_total (max.toNat / strideOf cfg.rate * strideOf cfg.rate) cfg.bufsz.toNat with hle | hle
  · rw [sampleCount, Nat.min_eq_left hle, Nat.mul_mod_left]
  · rw [sampleCount, Nat.min_eq_right hle, hbufsz]

namespace ReadInv

variable {s t : State}

theorem of_not_busy (h : s.rd.busy = false) : ReadInv s := by
  constructor <;> exact fun hb => absurd (h.symm.trans hb) Bool.false_ne_true

/-- The engine's invariant speaks of the engine and of its channel's operands only. -/
theorem of_same_engine (h : ReadInv s) (hrd : t.rd = s.rd)
    (hk : KeepsReadOperands (s.chan s.rd.ch) (t.chan s.rd.ch)) : ReadInv t := by
  obtain ⟨hlstate, hcfg, hsize, hfilter, hwritten⟩ := hk
  have hstride : (t.chan s.rd.ch).stride = (s.chan s.rd.ch).stride := by simp [Channel.stride, hcfg]
  constructor <;> rw [hrd] <;> intro hb
  · rw [hlstate]; exact h.initialised hb
  · exact hfilter (h.filterSet hb)
  · exact h.aligned hb
  · exact h.inRange hb
  · rw [hstride]; exact h.wholeChunks hb
  · rw [hcfg]; exact h.capped hb
  · rw [hstride]; exact h.chunkLeft hb
  · rw [hsize]; exact hwritten _ _ (h.bufferFilled hb)

/-- A READ begins (R202): the sample count is a whole number of chunks within the buffer, which is published. -/
theorem begun {c : Chan} {n : Nat} (hx : ChannelInv (s.chan c)) (hn : n = sampleCount (s.chan c).cfg s.arg1)
    (hstate : (s.chan c).lstate ≠ .uninit) (haligned : s.arg0.getLsbD 0 = false)
    (hrange : s.arg0.toNat + 2 * n ≤ 2 ^ 32) (hpub : (s.chan c).r ≠ (s.chan c).w) (hsome : n ≠ 0) :
    ReadInv { s with rd := { busy := true, ch := c, buf := (s.chan c).r, addr := s.arg0, n := n, k := 0 } } where
  initialised _ := hstate
  filterSet _ := by
    rw [← Option.ne_none_iff_isSome]
    exact fun hnone => hpub (hx.publishedFilter hnone)
  aligned _ := by
    have hbit : decide (s.arg0.toNat % 2 = 1) = false := (Nat.testBit_zero _).symm.trans haligned
    have hodd : s.arg0.toNat % 2 ≠ 1 := of_decide_eq_false hbit
    show s.arg0.toNat % 2 = 0
    omega
  inRange _ := hrange
  wholeChunks _ := hn ▸ sampleCount_mod_stride (hx.configValid hstate) s.arg1
  capped _ := hn ▸ Nat.min_le_right _ _
  chunkLeft _ := by
    show 0 * _ < n
    omega
  bufferFilled _ := hx.publishedFilled hpub

/-- A chunk that is not the last leaves a next one (R203). -/
theorem advanced (h : ReadInv s) (hmore : (s.rd.k + 1) * (s.chan s.rd.ch).stride ≠ s.rd.n) :
    ReadInv { s with rd := { s.rd with k := s.rd.k + 1 } } where
  initialised := h.initialised
  filterSet := h.filterSet
  aligned := h.aligned
  inRange := h.inRange
  wholeChunks := h.wholeChunks
  capped := h.capped
  chunkLeft hb := by
    obtain ⟨m, hm⟩ := Nat.dvd_of_mod_eq_zero (h.wholeChunks hb)
    have hlt := h.chunkLeft hb
    rw [hm, Nat.mul_comm] at hlt hmore
    have hk : s.rd.k < m := Nat.lt_of_mul_lt_mul_left hlt
    have hne : s.rd.k + 1 ≠ m := fun e => hmore (by rw [e])
    show (s.rd.k + 1) * (s.chan s.rd.ch).stride < s.rd.n
    rw [hm, Nat.mul_comm]
    exact Nat.mul_lt_mul_of_pos_left (by omega) (Nat.pos_of_ne_zero fun hz => by simp [hz] at hlt)
  bufferFilled := h.bufferFilled

end ReadInv

/-! ## The invariant of the block -/

/-- The line's users are channel `c` and the others (R51). -/
theorem irqUsers_eq (s : State) (c : Chan) :
    ((s.chan 0).dmaIrqEn || (s.chan 1).dmaIrqEn || (s.chan 2).dmaIrqEn) = ((s.chan c).dmaIrqEn || othersIrq c s) := by
  rcases chan_cases c with rfl | rfl | rfl <;> simp [othersIrq, Bool.or_comm, Bool.or_left_comm, Bool.or_assoc]

namespace BlockInv

variable {s t : State} {c : Chan}

theorem line_eq (h : BlockInv s) (c : Chan) : s.lineEn = ((s.chan c).dmaIrqEn || othersIrq c s) :=
  h.line.trans (irqUsers_eq s c)

/-- A step that changes one channel. -/
theorem of_one_channel (c : Chan) (h : BlockInv s) (hothers : otherChannels c s t) (hchan : ChannelInv (t.chan c))
    (hread : ReadInv t) (hline : t.lineEn = ((t.chan c).dmaIrqEn || othersIrq c s)) (hmem : t.mem.wf)
    (hfault : t.fault = true → t.rd.busy = true ∧ t.err = .busFault) : BlockInv t where
  channels d := by
    by_cases hd : d = c
    · exact hd ▸ hchan
    · exact hothers d hd ▸ h.channels d
  reading := hread
  line := by rw [hline, irqUsers_eq t c, othersIrq_congr c hothers]
  memory := hmem
  faulted := hfault

/-- A step that changes no channel and not the engine or the line. -/
theorem of_same_channels (h : BlockInv s) (hchans : t.chans = s.chans) (hrd : t.rd = s.rd) (hline : t.lineEn = s.lineEn)
    (hmem : t.mem.wf) (hfault : t.fault = true → t.rd.busy = true ∧ t.err = .busFault) : BlockInv t :=
  have hchan := State.chan_congr hchans
  { channels := fun c => hchan c ▸ h.channels c
    reading := h.reading.of_same_engine hrd (hchan s.rd.ch ▸ .refl _)
    line := by rw [hline, h.line, hchan, hchan, hchan]
    memory := hmem
    faulted := hfault }

/-- A step that changes one channel, but not its use of the line nor what a READ needs of it. -/
theorem setChan {x : Channel} (h : BlockInv s) (hx : ChannelInv x) (hkeep : KeepsReadOperands (s.chan c) x)
    (hirq : x.dmaIrqEn = (s.chan c).dmaIrqEn) : BlockInv (s.setChan c x) := by
  have hself := State.chan_setChan_self s c x
  refine h.of_one_channel c (otherChannels_setChan c s x) (hself.symm ▸ hx) (h.reading.of_same_engine rfl ?_) ?_
    h.memory h.faulted
  · by_cases hc : s.rd.ch = c
    · rw [hc, hself]; exact hkeep
    · rw [State.chan_setChan_ne _ _ hc]; exact .refl _
  · rw [hself, hirq]; exact h.line_eq c

/-! ### Commands -/

/-- A command that sets its channel to `y`. -/
theorem of_command {y : Channel} (h : BlockInv s) (ha : s.accepting) (hchans : t.chans = (s.setChan c y).chans)
    (hy : ChannelInv y) (hline : t.lineEn = (y.dmaIrqEn || othersIrq c s)) (hread : ReadInv t) (hmem : t.mem = s.mem)
    (hfault : t.fault = s.fault) : BlockInv t := by
  obtain ⟨hnofault, -⟩ := ha
  have hself : t.chan c = y := (State.chan_congr hchans c).trans (State.chan_setChan_self s c y)
  exact h.of_one_channel c (fun d hd => (State.chan_congr hchans d).trans (State.chan_setChan_ne s y hd))
    (hself ▸ hy) hread (hself ▸ hline) (hmem ▸ h.memory) (fun hf => by simp [hfault, hnofault] at hf)

/-- With channel `c` off the line, the line is the others' (R144, R148). -/
theorem line_and_others (h : BlockInv s) (c : Chan) : (s.lineEn && othersIrq c s) = othersIrq c s := by
  rw [h.line_eq c]
  cases othersIrq c s <;> simp

theorem of_commandEffect {i : Instr} (h : BlockInv s) (ha : s.accepting) (heff : CommandEffect s c i t) :
    BlockInv t := by
  have hx := h.channels c
  have hidle : ∀ u : State, u.rd = s.rd → ReadInv u := fun u e => .of_not_busy (e ▸ ha.2)
  cases heff with
  | reported =>
    exact h.of_same_channels rfl rfl rfl h.memory (fun hf => absurd (ha.1.symm.trans hf) Bool.false_ne_true)
  | initialised ch cfg answers draws hstate hvalid =>
    refine h.of_command (y := initialisedChannel cfg) ha rfl (.initialised hvalid) ?_ (hidle _ rfl) rfl rfl
    obtain ⟨-, hirq, -⟩ := hx.quietUnlessActive (by rw [hstate]; decide)
    exact (h.line_eq c).trans (by rw [hirq]; rfl)
  | tornDown =>
    exact h.of_command (y := Channel.reset) ha rfl .reset (h.line_and_others c) (hidle _ rfl) rfl rfl
  | started ch hstate =>
    exact h.of_command (y := startedChannel (s.chan c)) ha rfl (hx.started hstate) (by simp) (hidle _ rfl) rfl rfl
  | stopped ch hstate =>
    exact h.of_command (y := { (s.chan c).halt with lstate := .idle }) ha rfl (hx.stopped hstate)
      (h.line_and_others c) (hidle _ rfl) rfl rfl
  | configured i en fp vol hsetter hstate =>
    exact h.of_command (y := { s.chan c with readyEn := en, fp := fp, vol := vol }) ha rfl
      (hx.settings hstate en _ _ _ fp vol) (h.line_eq c) (hidle _ rfl) rfl rfl
  | acknowledged ch hstate =>
    exact h.of_command (y := { s.chan c with pendCount := 0#32 }) ha rfl
      (hx.settings hstate _ 0#32 _ _ _ _) (h.line_eq c) (hidle _ rfl) rfl rfl
  | consumed ch hnone hstate haligned hpub =>
    exact h.of_command (y := { s.chan c with r := (s.chan c).r + 1 }) ha rfl (hx.consumed hpub) (h.line_eq c)
      (hidle _ rfl) rfl rfl
  | readBegun ch n hn hstate haligned hrange hpub hsome =>
    refine h.of_command (y := { s.chan c with r := (s.chan c).r + 1 }) ha rfl (hx.consumed hpub) (h.line_eq c) ?_
      rfl rfl
    refine (ReadInv.begun hx hn hstate haligned hrange hpub hsome).of_same_engine rfl ?_
    have hself : (consumeBuffer c s).chan c = { s.chan c with r := (s.chan c).r + 1 } := State.chan_setChan_self s c _
    exact hself ▸ ⟨rfl, rfl, rfl, id, fun _ _ => id⟩

/-! ### The agents' steps -/

/-- A chunk of a READ (R203): its writes stay in the 32-bit address space (R90). -/
theorem of_performChunk (h : BlockInv s) (hf : s.fault = false) (hbusy : s.rd.busy = true)
    (hadm : chunkAdmitted Config.hostWritable s = true) : BlockInv (performChunk s) := by
  obtain ⟨hmem, hself, hothers, hlast, hmore⟩ := performChunk_spec s
  obtain ⟨-, hfault, -, -, -, hline, -⟩ := performChunk_frame s
  have hx := h.channels s.rd.ch
  have hheld := h.reading.initialised hbusy
  refine h.of_one_channel s.rd.ch hothers (hself ▸ hx.filtered hheld _) ?reading ?line ?memory ?faulted
  case reading =>
    by_cases hend : (s.rd.k + 1) * (s.chan s.rd.ch).stride = s.rd.n
    · exact .of_not_busy (by rw [(hlast hend).1])
    · refine (h.reading.advanced hend).of_same_engine (hmore hend).1 ?_
      exact hself ▸ .filtered _
  case line => rw [hline, hself]; exact h.line_eq _
  case memory =>
    obtain ⟨hstride, -⟩ := (ChanConfig.valid_iff _).1 (hx.configValid hheld)
    rw [hmem]
    exact Memory.wf_writeSamples _ (by rw [chunkPcm_length]; exact chunkAdmitted_inRange hadm hstride) h.memory
  case faulted => exact fun hf' => absurd (hf.symm.trans (hfault.symm.trans hf')) Bool.false_ne_true

/-- A register write other than CMD: at most notification flags are cleared (R231). -/
theorem of_storeReg (h : BlockInv s) (r : Reg) (v : Word) : BlockInv (storeReg s r v) := by
  obtain ⟨-, hfault, herr, -, hline, hrd, hmem, -⟩ := storeReg_frame s r v
  have hirq : ∀ c, ((storeReg s r v).chan c).dmaIrqEn = (s.chan c).dmaIrqEn := fun c => by
    rw [storeReg_chan]
    split <;> rfl
  exact
    { channels := fun c => by
        rw [storeReg_chan]
        split
        · exact (h.channels c).clearIrqBits v c
        · exact h.channels c
      reading := h.reading.of_same_engine hrd (by
        rw [storeReg_chan]
        split
        · exact .clearIrqBits v _
        · exact .refl _)
      line := by rw [hline, h.line, hirq, hirq, hirq]
      memory := hmem ▸ h.memory
      faulted := by rw [hfault, hrd, herr]; exact h.faulted }

theorem of_resetBlock (hmem : s.mem.wf) : BlockInv (resetBlock s) where
  channels c := (resetBlock_chan s c).symm ▸ .reset
  reading := .of_not_busy rfl
  line := rfl
  memory := hmem
  faulted hf := nomatch hf

theorem of_stepEffect {e : Event} (h : BlockInv s) (heff : StepEffect s e t) : BlockInv t := by
  cases heff with
  | reset => exact of_resetBlock h.memory
  | dropped | loaded | hostLoaded => exact h.of_same_channels rfl rfl rfl h.memory h.faulted
  | disabled => exact h
  | rejected w e ha =>
    exact h.of_same_channels rfl rfl rfl h.memory (fun hf => absurd (ha.1.symm.trans hf) Bool.false_ne_true)
  | command w i c t ha hdec hch heff =>
    have hcleared : BlockInv { s with lost := false } := h.of_same_channels rfl rfl rfl h.memory h.faulted
    exact hcleared.of_commandEffect ha heff
  | stored r v => exact h.of_storeReg r v
  | captured c v hf hcap =>
    exact h.setChan ((h.channels c).captured hcap v) (.captured (h.channels c) hcap v) (Channel.dmaByte_dmaIrqEn _ v)
  | completed c hf hline hdue =>
    obtain ⟨hpend, -⟩ := Bool.and_eq_true_iff.1 (dueChannel_some hdue).1
    have hx := (h.channels c).swapped hpend
    have hheld := ChannelInv.held_of_active ((h.channels c).active_of_pending hpend)
    exact h.setChan (hx.settings (by rwa [Channel.swap_lstate]) _ _ _ _ _ _) (.swapped _ _ _) (Channel.swap_dmaIrqEn _)
  | busFaulted hf hbusy => exact h.of_same_channels rfl rfl rfl h.memory (fun _ => ⟨hbusy, rfl⟩)
  | decoded hf hbusy hadm => exact h.of_performChunk hf hbusy hadm
  | hostStored a v => exact h.of_same_channels rfl rfl rfl (Memory.wf_write v a.isLt h.memory) h.faulted

end BlockInv

/-- Settles O56: the reset state is what a reset leaves of it. -/
theorem resetMeetsTheInvariant : Obligations.ResetMeetsTheInvariant :=
  show BlockInv State.reset from resetBlock_reset ▸ BlockInv.of_resetBlock (s := State.reset) Memory.wf_nil

/-- Settles O57, by the effects a step can have. -/
theorem stepKeepsTheInvariant : Obligations.StepKeepsTheInvariant := by
  intro s t h hstep
  obtain ⟨agenda, draws, heff⟩ := StepEffect.of_step hstep
  have htaken : BlockInv { s with agenda := agenda, draws := draws } :=
    h.of_same_channels rfl rfl rfl h.memory h.faulted
  exact htaken.of_stepEffect heff

/-! ## The reachable states (R60) -/

theorem Reachable.blockInv {s : State} (h : Reachable s) : BlockInv s := by
  induction h with
  | reset => exact resetMeetsTheInvariant
  | inputs s agenda answers _ ih => exact ih.of_same_channels rfl rfl rfl ih.memory ih.faulted
  | step s t _ ht ih => exact stepKeepsTheInvariant s t ih ht

/-- Settles O58: the four rules are fields of the channel invariant. -/
theorem reachableStatesKeepTheBufferRules : Obligations.ReachableStatesKeepTheBufferRules := by
  intro s c h
  have hx := h.blockInv.channels c
  exact ⟨hx.pendingNotArmed, hx.active_of_armed, hx.publishedFilled, fun hnone => .inl (hx.publishedFilter hnone)⟩

end Sys2Proof.Machine
end

section
/-!
PROOFS. Memory and register space (20_memory.md): which register accesses have a step, what a register read and a host
load give, what a refused chunk does, and the writers of host memory.
-/

namespace Sys2Proof.Machine

/-! ## Accesses to the register space (R84 to R86) -/

/-- R85: no register is reached inside the block by a narrow or unaligned access. -/
theorem regAt_unadmitted {off size : Nat} (hlt : off < 0x80) (h : size ≠ 4 ∨ off % 4 ≠ 0) :
    regAt off size = .error .unadmittedAccess := by
  have hadmitted : ¬ (size = 4 ∧ off % 4 = 0) := fun ⟨hsize, hmod⟩ => h.elim (· hsize) (· hmod)
  rw [regAt, if_neg (Nat.not_le.2 hlt), if_neg hadmitted]

theorem hostRead_error {off size : Nat} {f : Fault} (h : regAt off size = .error f) (s : State) :
    hostRead off size s = .fault f := by
  simp [hostRead, h]

theorem hostWrite_error {off size : Nat} {f : Fault} (h : regAt off size = .error f) (v : Word) (s : State) :
    hostWrite off size v s = .fault f := by
  simp [hostWrite, h]

theorem hostRead_offset (r : Reg) (s : State) : hostRead r.offset 4 s = .next { s with hostData := readReg s r } := by
  simp [hostRead, regAt_offset]

theorem step_read {s : State} {off size : Nat} {rest : List Event} (hf : s.fault = false)
    (ha : s.agenda = .read off size :: rest) : step s = hostRead off size { s with agenda := rest } := by
  simp [step_of_agenda ha, runEvent, hf]

theorem step_write {s : State} {off size : Nat} {v : Word} {rest : List Event} (hf : s.fault = false)
    (ha : s.agenda = .write off size v :: rest) : step s = hostWrite off size v { s with agenda := rest } := by
  simp [step_of_agenda ha, runEvent, hf]

theorem step_memLoad {s : State} {a : Addr} {rest : List Event} (hf : s.fault = false)
    (ha : s.agenda = .memLoad a :: rest) : step s = .next (hostLoad a { s with agenda := rest }) := by
  simp [step_of_agenda ha, runEvent, hf]

/-- Settles O42: such an access reaches no register. -/
theorem unalignedOrNarrowAccessIsStuck : Obligations.UnalignedOrNarrowAccessIsStuck := by
  intro s off size v rest hf hlt hform hagenda
  have herror := regAt_unadmitted hlt hform
  rcases hagenda with hread | hwrite
  · rw [step_read hf hread, hostRead_error herror]
  · rw [step_write hf hwrite, hostWrite_error herror]

/-- Settles O43. -/
theorem registerReadsHaveNoSideEffect : Obligations.RegisterReadsHaveNoSideEffect := by
  intro s r rest hf hagenda
  rw [step_read hf hagenda, hostRead_offset, readReg_with_agenda]

/-! ## Host loads (R95, R208, R340) -/

theorem hostByte_of_read {s : State} {a : Addr} {b : Byte} (h : s.mem.read a.toNat = some b) : hostByte s a = b := by
  simp [hostByte, h]

/-- Settles O46: the load is one of the two of `hostLoad_cases`, by whether the byte is any value to the host. -/
theorem hostLoadSeesTheLastWrite : Obligations.HostLoadSeesTheLastWrite := by
  intro s a rest hf hagenda
  have hopen := isOpen_anyValueRanges { s with agenda := rest } a.toNat
  refine ⟨_, step_memLoad hf hagenda, ?_⟩
  rcases hostLoad_cases a { s with agenda := rest } with ⟨hany, e⟩ | ⟨hknown, e⟩ <;> rw [e]
  · refine ⟨rfl, fun _ => ⟨rfl, rfl⟩, fun hbusy hsettled => ?_⟩
    rcases hopen.1 hany with hrange | habandoned
    · exact absurd hrange hbusy
    · exact absurd (hsettled.symm.trans habandoned) Bool.false_ne_true
  · refine ⟨rfl, fun hrange => ?_, fun _ _ => ⟨rfl, fun b hb => ?_⟩⟩
    · exact absurd (hknown.symm.trans (hopen.2 hrange)) Bool.false_ne_true
    · exact congrArg (0#24 ++ ·) (hostByte_of_read hb)

/-! ## A refused chunk (R91) -/

/-- One refused write refuses the chunk. -/
theorem chunkAdmitted_eq_false {writable : Nat → Nat → Bool} {s : State} {j : Nat}
    (hj : j < (s.chan s.rd.ch).stride) (h : writable (chunkBase s + 2 * j) 2 = false) :
    chunkAdmitted writable s = false :=
  List.all_eq_false.2 ⟨j, List.mem_range.2 hj, by simp [admits, h]⟩

/-- Settles O26: of the three things a chunk move can do only the fault outcome is left. -/
theorem refusedChunkWritesNothing : Obligations.RefusedChunkWritesNothing := by
  intro writable s j hbusy hj hrefused
  rw [Nat.mul_assoc] at hrefused
  have hadm : chunkAdmitted writable s = false := chunkAdmitted_eq_false hj hrefused
  rcases chunkStep_cases writable s with ⟨hidle, -⟩ | ⟨-, -, e⟩ | ⟨-, hadmitted, -⟩
  · exact absurd (hidle.symm.trans hbusy) Bool.false_ne_true
  · exact e
  · exact absurd (hadm.symm.trans hadmitted) Bool.false_ne_true

/-! ## The writers of host memory (R83, R206) -/

/-- What a move can leave of host memory (R83; log 9). -/
inductive MemoryEffect (s : State) : Event → Memory → Prop
  | unchanged (e : Event) : MemoryEffect s e s.mem
  | decoded (hbusy : s.rd.busy = true) (hadm : chunkAdmitted Config.hostWritable s = true) :
      MemoryEffect s .chunk (Memory.writeSamples s.mem (chunkBase s) (chunkPcm s))
  | hostStored (a : Addr) (v : Byte) : MemoryEffect s (.memStore a v) (s.mem.write a.toNat v)

/-- No command writes host memory (R83). -/
theorem CommandEffect.mem {s t : State} {c : Chan} {i : Instr} (h : CommandEffect s c i t) : t.mem = s.mem := by
  cases h <;> rfl

/-- A move's effect on host memory. -/
theorem StepEffect.mem {s t : State} {e : Event} (h : StepEffect s e t) : MemoryEffect s e t.mem := by
  cases h with
  | reset | dropped | rejected | loaded | disabled | captured | completed | busFaulted | hostLoaded =>
    exact .unchanged _
  | command w i c t ha hdec hch heff => rw [heff.mem]; exact .unchanged _
  | stored r v =>
    obtain ⟨-, -, -, -, -, -, hmem, -⟩ := storeReg_frame s r v
    rw [hmem]
    exact .unchanged _
  | decoded hf hbusy hadm => rw [(performChunk_spec s).1]; exact .decoded hbusy hadm
  | hostStored a v => exact .hostStored a v

/-- The model's own lists and counters have no part in an effect on host memory. -/
theorem MemoryEffect.of_taken {s : State} {e : Event} {m : Memory} {agenda : List Event} {draws : Nat}
    (h : MemoryEffect { s with agenda := agenda, draws := draws } e m) : MemoryEffect s e m := by
  cases h with
  | unchanged => exact .unchanged _
  | decoded hbusy hadm => exact .decoded hbusy hadm
  | hostStored a v => exact .hostStored a v

/-- A step's effect on host memory. -/
theorem memoryEffect_of_step {s t : State} (h : step s = .next t) : MemoryEffect s (takeEvent s).1 t.mem := by
  obtain ⟨_, _, heff⟩ := StepEffect.of_step h
  exact heff.mem.of_taken

/-- An admitted chunk keeps host memory canonical; one of no samples writes nothing (R90; log 7). -/
theorem wf_writeSamples_chunk {s : State} (hadm : chunkAdmitted Config.hostWritable s = true) (h : s.mem.wf) :
    (Memory.writeSamples s.mem (chunkBase s) (chunkPcm s)).wf := by
  by_cases hstride : (s.chan s.rd.ch).stride = 0
  · have hnone : chunkPcm s = [] := List.eq_nil_of_length_eq_zero (by rw [chunkPcm_length, hstride])
    rw [hnone]
    exact h
  · exact Memory.wf_writeSamples _ (by rw [chunkPcm_length]; exact chunkAdmitted_inRange hadm hstride) h

theorem MemoryEffect.wf {s : State} {e : Event} {m : Memory} (heff : MemoryEffect s e m) (h : s.mem.wf) : m.wf := by
  cases heff with
  | unchanged => exact h
  | decoded _ hadm => exact wf_writeSamples_chunk hadm h
  | hostStored a v => exact Memory.wf_write v a.isLt h

/-- Settles O55, by the effects a step can have on host memory. -/
theorem memoryStaysCanonical : Obligations.MemoryStaysCanonical := fun _ _ h hstep =>
  (memoryEffect_of_step hstep).wf h

/-- The chunk the engine does next ends inside the READ's output range (R206). -/
theorem ReadInv.chunk_end_le {s : State} (h : ReadInv s) (hbusy : s.rd.busy = true) :
    chunkBase s + 2 * (s.chan s.rd.ch).stride ≤ s.rd.addr.toNat + 2 * s.rd.n := by
  obtain ⟨m, hm⟩ := Nat.dvd_of_mod_eq_zero (h.wholeChunks hbusy)
  have hleft := h.chunkLeft hbusy
  rw [hm, Nat.mul_comm] at hleft
  have hk : s.rd.k + 1 ≤ m := Nat.lt_of_mul_lt_mul_left hleft
  have hend : s.rd.k * (s.chan s.rd.ch).stride + (s.chan s.rd.ch).stride ≤ s.rd.n := by
    rw [hm, ← Nat.succ_mul, Nat.mul_comm]
    exact Nat.mul_le_mul_left _ hk
  unfold chunkBase
  omega

/-- A changed byte is the host's own store or lies in the chunk, which begins at or after the READ's address and ends
inside its output range (R206). -/
theorem MemoryEffect.changed {s : State} {e : Event} {m : Memory} {a : Nat} (heff : MemoryEffect s e m)
    (h : ReadInv s) (hchanged : m.read a ≠ s.mem.read a) :
    (e = .chunk ∧ s.rd.busy = true ∧ s.rd.addr.toNat ≤ a ∧ a < s.rd.addr.toNat + 2 * s.rd.n) ∨
      (∃ (b : Addr) (v : Byte), e = .memStore b v ∧ a = b.toNat) := by
  cases heff with
  | unchanged => exact absurd rfl hchanged
  | decoded hbusy =>
    have hinside : ¬ (a < chunkBase s ∨ chunkBase s + 2 * (chunkPcm s).length ≤ a) :=
      fun houtside => hchanged (Memory.read_writeSamples_outside _ _ _ _ houtside)
    rw [chunkPcm_length] at hinside
    have hbase : s.rd.addr.toNat ≤ chunkBase s := Nat.le_add_right _ _
    have hend := h.chunk_end_le hbusy
    exact .inl ⟨rfl, hbusy, by omega, by omega⟩
  | hostStored b v =>
    exact .inr ⟨b, v, rfl, not_not.1 fun hne => hchanged (Memory.read_write_ne _ v hne)⟩

/-- Settles O49, by the effects a step can have on host memory. -/
theorem onlyChunksAndTheHostWriteMemory : Obligations.OnlyChunksAndTheHostWriteMemory := fun _ _ _ h hstep =>
  (memoryEffect_of_step hstep).changed h.reading

end Sys2Proof.Machine
end

section
/-!
PROOFS. Encoding (30_encoding.md): the fields of a command word as numbers, the rows of the opcode map, decoding in
the check order of R303, the two round trips between commands and words, and the errors of an illegal word and of
CH = 3.
-/

namespace Sys2Proof.OpForm

/-! ## The command a form makes (R124) -/

/-- R124: the form accepts the immediate. -/
def Accepts : OpForm → Half → Prop
  | .plain _, imm => imm = 0#16
  | .enable _, imm => imm.extractLsb' 1 15 = 0#15
  | .value _, _ => True

theorem build_plain (mk : BitVec 2 → Instr) (ch : BitVec 2) {imm : Half} (h : imm = 0#16) :
    (plain mk).build ch imm = .instr (mk ch) :=
  if_pos h

theorem build_enable (mk : BitVec 2 → Bool → Instr) (ch : BitVec 2) {imm : Half} (h : imm.extractLsb' 1 15 = 0#15) :
    (enable mk).build ch imm = .instr (mk ch (imm.getLsbD 0)) :=
  if_pos h

theorem build_value (mk : BitVec 2 → Half → Instr) (ch : BitVec 2) (imm : Half) :
    (value mk).build ch imm = .instr (mk ch imm) := rfl

theorem build_of_accepts {f : OpForm} {imm : Half} (h : f.Accepts imm) (ch : BitVec 2) :
    ∃ i, f.build ch imm = .instr i := by
  cases f with
  | plain mk => exact ⟨_, build_plain mk ch h⟩
  | enable mk => exact ⟨_, build_enable mk ch h⟩
  | value mk => exact ⟨_, build_value mk ch imm⟩

theorem build_of_not_accepts {f : OpForm} {imm : Half} (h : ¬ f.Accepts imm) (ch : BitVec 2) :
    f.build ch imm = .illegal .immConstraint := by
  cases f with
  | plain mk => exact if_neg h
  | enable mk => exact if_neg h
  | value mk => exact absurd trivial h

end Sys2Proof.OpForm

namespace Sys2Proof.Machine

/-! ## The fields of a command word (R110) -/

theorem opField_toNat (w : Word) : (opField w).toNat = wordOp w := by
  rw [opField, BitVec.extractLsb'_toNat, Nat.shiftRight_zero, wordOp]

theorem chField_toNat (w : Word) : (chField w).toNat = w.toNat / 16 % 4 := by
  rw [chField, BitVec.extractLsb'_toNat, Nat.shiftRight_eq_div_pow]

theorem rsvField_toNat (w : Word) : (rsvField w).toNat = wordRsv w := by
  rw [rsvField, BitVec.extractLsb'_toNat, Nat.shiftRight_eq_div_pow, wordRsv]

theorem immField_toNat (w : Word) : (immField w).toNat = wordImm w := by
  rw [immField, BitVec.extractLsb'_toNat, Nat.shiftRight_eq_div_pow, wordImm]
  have := w.isLt
  omega

theorem rsvField_eq_zero_iff (w : Word) : rsvField w = 0#10 ↔ wordRsv w = 0 := by
  rw [← BitVec.toNat_inj, rsvField_toNat, BitVec.toNat_zero]

theorem commandWord_toNat (op : BitVec 4) (ch : BitVec 2) (imm : Half) :
    (commandWord op ch imm).toNat = 65536 * imm.toNat + 16 * ch.toNat + op.toNat := by
  simp only [commandWord, toNat_append_eq, BitVec.toNat_zero]
  omega

section CommandWordFields

variable (op : BitVec 4) (ch : BitVec 2) (imm : Half)

theorem opField_commandWord : opField (commandWord op ch imm) = op := by
  refine BitVec.eq_of_toNat_eq ?_
  rw [opField_toNat, wordOp, commandWord_toNat]
  have := op.isLt
  omega

theorem chField_commandWord : chField (commandWord op ch imm) = ch := by
  refine BitVec.eq_of_toNat_eq ?_
  rw [chField_toNat, commandWord_toNat]
  have := op.isLt
  have := ch.isLt
  omega

theorem rsvField_commandWord : rsvField (commandWord op ch imm) = 0#10 := by
  rw [rsvField_eq_zero_iff, wordRsv, commandWord_toNat]
  have := op.isLt
  have := ch.isLt
  omega

theorem immField_commandWord : immField (commandWord op ch imm) = imm := by
  refine BitVec.eq_of_toNat_eq ?_
  rw [immField_toNat, wordImm, commandWord_toNat]
  have := op.isLt
  have := ch.isLt
  omega

end CommandWordFields

/-- A word with RSV = 0 is made of its other three fields. -/
theorem commandWord_fields {w : Word} (hrsv : rsvField w = 0#10) :
    commandWord (opField w) (chField w) (immField w) = w := by
  refine BitVec.eq_of_toNat_eq ?_
  rw [commandWord_toNat, opField_toNat, chField_toNat, immField_toNat, wordOp, wordImm]
  rw [rsvField_eq_zero_iff, wordRsv] at hrsv
  omega

/-! ## SETRDY's immediate (R116, R124) -/

theorem enableBits_eq_zero_iff (imm : Half) : imm.extractLsb' 1 15 = 0#15 ↔ imm.toNat / 2 = 0 := by
  rw [← BitVec.toNat_inj, BitVec.extractLsb'_toNat, Nat.shiftRight_eq_div_pow, BitVec.toNat_zero]
  have := imm.isLt
  omega

/-- An immediate whose bits 15:1 are zero is its enable bit alone. -/
theorem enable_append_eq {imm : Half} (h : imm.extractLsb' 1 15 = 0#15) :
    0#15 ++ BitVec.ofBool (imm.getLsbD 0) = imm := by
  rw [enableBits_eq_zero_iff] at h
  refine BitVec.eq_of_toNat_eq ((toNat_zero_append 15 _).trans ?_)
  rw [BitVec.toNat_ofBool, BitVec.getLsbD, Nat.testBit_zero]
  obtain hzero | hone : imm.toNat = 0 ∨ imm.toNat = 1 := by omega
  · rw [hzero]; rfl
  · rw [hone]; rfl

/-! ## The rows of the opcode map (R112 to R121, R124) -/

/-- What a row of the opcode map can be: for each form, its opcodes and the words of its commands. -/
inductive OpcodeRow (op : BitVec 4) : OpForm → Prop
  | plain (mk : BitVec 2 → Instr)
      (hop : op.toNat = 1 ∨ op.toNat = 2 ∨ op.toNat = 3 ∨ op.toNat = 4 ∨ op.toNat = 9 ∨ op.toNat = 10)
      (hword : ∀ ch, encode (mk ch) = commandWord op ch 0#16) : OpcodeRow op (.plain mk)
  | enable (mk : BitVec 2 → Bool → Instr) (hop : op.toNat = 5)
      (hword : ∀ ch en, encode (mk ch en) = commandWord op ch (0#15 ++ BitVec.ofBool en)) : OpcodeRow op (.enable mk)
  | value (mk : BitVec 2 → Half → Instr) (hop : op.toNat = 6 ∨ op.toNat = 7 ∨ op.toNat = 8)
      (hword : ∀ ch imm, encode (mk ch imm) = commandWord op ch imm) : OpcodeRow op (.value mk)

namespace OpcodeRow

variable {op : BitVec 4} {f : OpForm}

/-- Every row of the opcode map is one of these: SETRDY is the fifth, the three setters of a value are the sixth to
the eighth, and the last branch is the reserved opcodes. -/
theorem of_opForm (h : opForm op = some f) : OpcodeRow op f := by
  unfold opForm at h
  split at h
  case h_11 => cases h
  all_goals
    rename_i hop
    have hlit : BitVec.ofNat 4 op.toNat = op := (BitVec.ofNat_toNat 4 op).trans (BitVec.setWidth_eq op)
    rw [hop] at hlit
    cases h
    subst hlit
  case h_5 => exact .enable _ rfl fun _ _ => rfl
  case h_6 | h_7 | h_8 => exact .value _ (by decide) fun _ _ => rfl
  all_goals exact .plain _ (by decide) fun _ => rfl

/-- The command a row makes of an immediate has that immediate in its word. -/
theorem encode_of_build (row : OpcodeRow op f) {ch : BitVec 2} {imm : Half} {i : Instr}
    (h : f.build ch imm = .instr i) : encode i = commandWord op ch imm := by
  by_cases haccepts : f.Accepts imm
  case neg => rw [OpForm.build_of_not_accepts haccepts] at h; cases h
  case pos =>
    cases row with
    | plain mk _ hword =>
      obtain rfl := Decoded.instr.inj ((OpForm.build_plain mk ch haccepts).symm.trans h)
      rw [hword, show imm = 0#16 from haccepts]
    | enable mk _ hword =>
      obtain rfl := Decoded.instr.inj ((OpForm.build_enable mk ch haccepts).symm.trans h)
      rw [hword, enable_append_eq haccepts]
    | value mk _ hword =>
      obtain rfl := Decoded.instr.inj ((OpForm.build_value mk ch imm).symm.trans h)
      rw [hword]

theorem accepts_iff {w : Word} (row : OpcodeRow (opField w) f) :
    f.Accepts (immField w) ↔ ¬ wordImmViolated w := by
  cases row with
  | plain mk hop =>
    rw [opField_toNat] at hop
    rw [OpForm.Accepts, ← BitVec.toNat_inj, immField_toNat, BitVec.toNat_zero]
    omega
  | enable mk hop =>
    rw [opField_toNat] at hop
    rw [OpForm.Accepts, enableBits_eq_zero_iff, immField_toNat]
    omega
  | value mk hop =>
    rw [opField_toNat] at hop
    exact iff_of_true trivial (by omega)

end OpcodeRow

theorem opForm_eq_none_iff (op : BitVec 4) : opForm op = none ↔ op.toNat = 0 ∨ 11 ≤ op.toNat := by
  revert op; decide

theorem exists_opForm {w : Word} (h : ¬ wordReserved w) : ∃ f, opForm (opField w) = some f := by
  rw [wordReserved, ← opField_toNat, ← opForm_eq_none_iff] at h
  exact Option.ne_none_iff_exists'.1 h

/-! ## Decoding in the check order OP, RSV, IMM16 (R122 to R124, R303) -/

theorem decode_of_opForm {w : Word} {f : OpForm} (hf : opForm (opField w) = some f) (hrsv : rsvField w = 0#10) :
    decode w = f.build (chField w) (immField w) := by
  simp [decode, hf, hrsv]

theorem decode_reservedOp {w : Word} (h : wordReserved w) : decode w = .illegal .reservedOp := by
  rw [wordReserved, ← opField_toNat, ← opForm_eq_none_iff] at h
  simp [decode, h]

theorem decode_reservedBits {w : Word} (hop : ¬ wordReserved w) (hrsv : wordRsv w ≠ 0) :
    decode w = .illegal .reservedBits := by
  obtain ⟨f, hf⟩ := exists_opForm hop
  rw [Ne, ← rsvField_eq_zero_iff] at hrsv
  simp [decode, hf, hrsv]

theorem decode_immConstraint {w : Word} (hop : ¬ wordReserved w) (hrsv : wordRsv w = 0) (himm : wordImmViolated w) :
    decode w = .illegal .immConstraint := by
  obtain ⟨f, hf⟩ := exists_opForm hop
  rw [decode_of_opForm hf ((rsvField_eq_zero_iff w).2 hrsv)]
  exact OpForm.build_of_not_accepts (fun h => (OpcodeRow.of_opForm hf).accepts_iff.1 h himm) _

theorem decode_legal {w : Word} (hop : ¬ wordReserved w) (hrsv : wordRsv w = 0) (himm : ¬ wordImmViolated w) :
    ∃ i, decode w = .instr i := by
  obtain ⟨f, hf⟩ := exists_opForm hop
  rw [decode_of_opForm hf ((rsvField_eq_zero_iff w).2 hrsv)]
  exact OpForm.build_of_accepts ((OpcodeRow.of_opForm hf).accepts_iff.2 himm) _

/-- A word that decodes to a command has an opcode of the map and RSV = 0, and its form builds the command. -/
theorem decode_instr {w : Word} {i : Instr} (h : decode w = .instr i) :
    ∃ f, opForm (opField w) = some f ∧ rsvField w = 0#10 ∧ f.build (chField w) (immField w) = .instr i := by
  by_cases hop : wordReserved w
  case pos => rw [decode_reservedOp hop] at h; cases h
  by_cases hrsv : wordRsv w = 0
  case neg => rw [decode_reservedBits hop hrsv] at h; cases h
  obtain ⟨f, hf⟩ := exists_opForm hop
  have hzero := (rsvField_eq_zero_iff w).2 hrsv
  exact ⟨f, hf, hzero, decode_of_opForm hf hzero ▸ h⟩

/-! ## Decoding the word of a command, form by form -/

section CommandWordDecodes

variable {op : BitVec 4}

theorem decode_commandWord {f : OpForm} (hf : opForm op = some f) (ch : BitVec 2) (imm : Half) :
    decode (commandWord op ch imm) = f.build ch imm := by
  have hop : opForm (opField (commandWord op ch imm)) = some f := by rw [opField_commandWord, hf]
  rw [decode_of_opForm hop (rsvField_commandWord op ch imm), chField_commandWord, immField_commandWord]

theorem decode_plain_word {mk : BitVec 2 → Instr} (hf : opForm op = some (.plain mk)) (ch : BitVec 2) :
    decode (commandWord op ch 0#16) = .instr (mk ch) :=
  (decode_commandWord hf ch _).trans (OpForm.build_plain mk ch rfl)

theorem decode_enable_word {mk : BitVec 2 → Bool → Instr} (hf : opForm op = some (.enable mk)) (ch : BitVec 2)
    (en : Bool) : decode (commandWord op ch (0#15 ++ BitVec.ofBool en)) = .instr (mk ch en) := by
  have hbits : (0#15 ++ BitVec.ofBool en).extractLsb' 1 15 = 0#15 := by revert en; decide
  have henable : (0#15 ++ BitVec.ofBool en).getLsbD 0 = en := by revert en; decide
  rw [decode_commandWord hf, OpForm.build_enable mk ch hbits, henable]

theorem decode_value_word {mk : BitVec 2 → Half → Instr} (hf : opForm op = some (.value mk)) (ch : BitVec 2)
    (imm : Half) : decode (commandWord op ch imm) = .instr (mk ch imm) :=
  decode_commandWord hf ch imm

end CommandWordDecodes

/-! ## The round trips (R110 to R126) -/

/-- Settles O1, by the three forms of a command's word. -/
theorem decodeOfEncodeIsTheCommand : Obligations.DecodeOfEncodeIsTheCommand := by
  intro i
  cases i with
  | init ch | deinit ch | start ch | stop ch | read ch | ack ch => exact decode_plain_word rfl ch
  | setrdy ch en => exact decode_enable_word rfl ch en
  | setmaxv ch imm | setgain ch imm | setvol ch imm => exact decode_value_word rfl ch imm

/-- Settles O2: the fields hold every bit of a word with RSV = 0, and the command's word has the same fields. -/
theorem encodeOfDecodeIsTheWord : Obligations.EncodeOfDecodeIsTheWord := by
  intro w i h
  obtain ⟨f, hf, hrsv, hbuild⟩ := decode_instr h
  calc encode i = commandWord (opField w) (chField w) (immField w) := (OpcodeRow.of_opForm hf).encode_of_build hbuild
    _ = w := commandWord_fields hrsv

/-- Settles O3, one case per check of R303. -/
theorem decodeRefusesExactlyTheIllegalWords : Obligations.DecodeRefusesExactlyTheIllegalWords := by
  intro w
  by_cases hop : wordReserved w
  case pos => simp [decode_reservedOp hop, hop]
  by_cases hrsv : wordRsv w = 0
  case neg => simp [decode_reservedBits hop hrsv, hop, hrsv]
  by_cases himm : wordImmViolated w
  case pos => simp [decode_immConstraint hop hrsv himm, hop, hrsv, himm]
  case neg =>
    obtain ⟨i, hi⟩ := decode_legal hop hrsv himm
    simp [hi, hop, hrsv, himm]

/-- Settles O4: the legal words are the words of their commands. -/
theorem wordsOfTheOpcodeMapDecode : Obligations.WordsOfTheOpcodeMapDecode :=
  ⟨decodeOfEncodeIsTheCommand (.init 1#2), decodeOfEncodeIsTheCommand (.deinit 2#2),
    decodeOfEncodeIsTheCommand (.start 1#2), decodeOfEncodeIsTheCommand (.stop 2#2),
    decodeOfEncodeIsTheCommand (.setrdy 2#2 true), decodeOfEncodeIsTheCommand (.setmaxv 0#2 64#16),
    decodeOfEncodeIsTheCommand (.setgain 1#2 16#16), decodeOfEncodeIsTheCommand (.setvol 1#2 32#16),
    decodeOfEncodeIsTheCommand (.read 2#2), decodeOfEncodeIsTheCommand (.ack 1#2),
    decode_reservedOp (by decide), decode_reservedBits (by decide) (by decide),
    decode_immConstraint (by decide) (by decide) (by decide)⟩

/-! ## The errors of a command word (R122 to R125) -/

theorem exists_decode_illegal {w : Word} (h : wordReserved w ∨ wordRsv w ≠ 0 ∨ wordImmViolated w) :
    ∃ e, decode w = .illegal e := by
  by_cases hop : wordReserved w
  case pos => exact ⟨_, decode_reservedOp hop⟩
  by_cases hrsv : wordRsv w = 0
  case neg => exact ⟨_, decode_reservedBits hop hrsv⟩
  have himm : wordImmViolated w := (h.resolve_left hop).resolve_left (not_not.2 hrsv)
  exact ⟨_, decode_immConstraint hop hrsv himm⟩

/-- The step of a CMD write before FAULT is the meaning of its word (R302). -/
theorem step_write_cmd {s : State} {w : Word} {rest : List Event} (hf : s.fault = false)
    (h : s.agenda = .write 0x00 4 w :: rest) : step s = issue w { s with agenda := rest } := by
  rw [step_write hf h, hostWrite, show regAt 0x00 4 = .ok .cmd from regAt_offset .cmd]

/-- Settles O9: such a word decodes to no command. -/
theorem illegalWordReportsIllegalCommand : Obligations.IllegalWordReportsIllegalCommand := by
  intro s w rest hagenda haccepting hillegal
  obtain ⟨e, he⟩ := exists_decode_illegal hillegal
  have haccepting' : ({ s with agenda := rest } : State).accepting := haccepting
  rw [step_write_cmd haccepting.1 hagenda, issue_illegal he, accept_accepting _ haccepting']
  rfl

/-- Settles O10: the channel check comes before the command's own rule. -/
theorem channelThreeIsInvalid : Obligations.ChannelThreeIsInvalid := by
  intro i s haccepting hch
  rw [exec_eq_command, command, accept_accepting _ haccepting, onChannel_none ((chanOf_eq_none_iff _).2 hch)]
  rfl

end Sys2Proof.Machine
end

section
/-!
PROOFS. Lifecycle (40_lifecycle.md): what an accepted command answers, everything INIT can do, the states START, STOP
and DEINIT leave, the lifecycle table, and the writer of the front end.
-/

namespace Sys2Proof.Machine

/-! ## The channel a command writes -/

/-- A command writes `chans` by one `setChan`, whatever else of the state it writes. -/
theorem State.chan_eq_of_chans_eq {s t : State} {c : Chan} {x : Channel} (h : t.chans = (s.setChan c x).chans) :
    t.chan c = x :=
  (State.chan_congr h c).trans (State.chan_setChan_self s c x)

/-! ## An accepted command (R302, R303) -/

/-- No command touches what `commandFrame` lists. -/
theorem CommandEffect.frame {s t : State} {c : Chan} {i : Instr} (h : CommandEffect s c i t) : commandFrame s t := by
  cases h <;> exact ⟨rfl, rfl, rfl, rfl, rfl, rfl, rfl, fun _ => rfl⟩

section Accepted

variable {i : Instr} {c : Chan} {s t : State}

theorem exec_accepting (ha : s.accepting) (hc : chanOf i.ch = some c) :
    exec i s = .next (ruleOf i c { s with lost := false }) := by
  rw [exec_eq_command, command_accepting ha hc]

/-- An accepted command answers what its rule makes of the state, with the frame every command keeps. -/
theorem exec_of_rule (ha : s.accepting) (hc : chanOf i.ch = some c) (h : ruleOf i c { s with lost := false } = t) :
    exec i s = .next t ∧ otherChannels c s t ∧ commandFrame s t := by
  subst h
  have heff := CommandEffect.of_ruleOf (s := { s with lost := false }) (c := c) i
  exact ⟨exec_accepting ha hc, heff.others, heff.frame⟩

/-- A rule that only reports changes nothing else; `finish s` is `raise .ok s`. -/
theorem exec_of_raise {e : ErrCode} (ha : s.accepting) (hc : chanOf i.ch = some c)
    (h : ruleOf i c { s with lost := false } = raise e { s with lost := false }) :
    exec i s = .next (reportOnly e s) :=
  (exec_of_rule ha hc h).1

theorem setter_uninit (f : Channel → Channel) (h : (s.chan c).lstate = .uninit) : setter f c s = raise .badState s :=
  whenInit_uninit _ h

theorem ackChannel_uninit (h : (s.chan c).lstate = .uninit) : ackChannel c s = raise .badState s :=
  whenInit_uninit _ h

theorem readChannel_uninit (h : (s.chan c).lstate = .uninit) : readChannel c s = raise .badState s :=
  whenInit_uninit _ h

/-- Every command but INIT and DEINIT is BAD_STATE on an UNINIT channel (R146, R148, R180 to R183, R202, R230). -/
theorem ruleOf_uninit (h : (s.chan c).lstate = .uninit) (hinit : ∀ ch, i ≠ .init ch) (hdeinit : ∀ ch, i ≠ .deinit ch) :
    ruleOf i c s = raise .badState s := by
  cases i with
  | init ch => exact absurd rfl (hinit ch)
  | deinit ch => exact absurd rfl (hdeinit ch)
  | start => exact startChannel_refused (by simp [h])
  | stop => exact stopChannel_uninit _ h
  | setrdy | setmaxv | setgain | setvol => exact setter_uninit _ h
  | read => exact readChannel_uninit h
  | ack => exact ackChannel_uninit h

end Accepted

/-! ## INIT (R140 to R143) -/

section Init

variable {c : Chan} {s : State} {cfg : ChanConfig} {rest : List Bool}

theorem initChannel_held (h : (s.chan c).lstate ≠ .uninit) : initChannel c s = raise .badState s := by
  simp [initChannel, h]

theorem initChannel_invalid (h : (s.chan c).lstate = .uninit) (hv : (stagedConfig (s.stage c)).valid = false) :
    initChannel c s = raise .configError s := by
  simp [initChannel, h, hv]

theorem initChannel_valid (h : (s.chan c).lstate = .uninit) (hv : (stagedConfig (s.stage c)).valid = true) :
    initChannel c s = acquire c (stagedConfig (s.stage c)) s := by
  simp [initChannel, h, hv]

/-- R140: the staged configuration is a whole number of frames, of at least one sample each. -/
theorem stagedConfig_valid {st : Staging} (hrate : 1 ≤ st.rate.toNat / 1000)
    (hframes : st.bufsz.toNat % (st.rate.toNat / 1000) = 0) : (stagedConfig st).valid = true :=
  (ChanConfig.valid_iff _).2 ⟨Nat.one_le_iff_ne_zero.1 hrate, hframes⟩

theorem stagedConfig_invalid {st : Staging}
    (h : st.rate.toNat / 1000 = 0 ∨ st.bufsz.toNat % (st.rate.toNat / 1000) ≠ 0) : (stagedConfig st).valid = false :=
  Bool.eq_false_iff.2 fun hv =>
    have ⟨hrate, hframes⟩ := (ChanConfig.valid_iff _).1 hv
    h.elim hrate (fun hne => hne hframes)

/-! The resources by the listed answers (R141; log 4). -/

theorem acquire_refusedBuffer0 (h : s.answers = false :: rest) :
    acquire c cfg s = raise .allocationError { s with answers := rest } := by
  simp [acquire, drawAlloc, drawAnswer_listed _ _ _ _ h]

theorem acquire_refusedBuffer1 (h : s.answers = true :: false :: rest) :
    acquire c cfg s = raise .allocationError { s with answers := rest } := by
  simp [acquire, drawAlloc, drawAnswer, h]

theorem acquire_refusedDma (h : s.answers = true :: true :: false :: rest) :
    acquire c cfg s = raise .resourceExhausted { s with answers := rest } := by
  simp [acquire, drawAlloc, drawDma, drawAnswer, h]

theorem acquire_granted (h : s.answers = true :: true :: true :: rest) :
    acquire c cfg s = finish (programCapture c cfg
      (({ s with answers := rest } : State).setChan c (initialisedChannel cfg))) := by
  simp [acquire, drawAlloc, drawDma, drawAnswer, h]

end Init

/-- What INIT can leave of the state `s` (R140, R141): the channel is in use, the configuration or a resource is
refused, or the channel is IDLE with its staged configuration. -/
inductive InitEffect (c : Chan) (s : State) : State → Prop
  | held (hstate : (s.chan c).lstate ≠ .uninit) : InitEffect c s (raise .badState s)
  | failed (e : ErrCode) (answers : List Bool) (draws : Nat) (hstate : (s.chan c).lstate = .uninit)
      (he : e = .configError ∨ e = .allocationError ∨ e = .resourceExhausted) :
      InitEffect c s (raise e { s with answers := answers, draws := draws })
  | initialised (answers : List Bool) (draws : Nat) (hstate : (s.chan c).lstate = .uninit) :
      InitEffect c s (finish (programCapture c (stagedConfig (s.stage c))
        (({ s with answers := answers, draws := draws } : State).setChan c
          (initialisedChannel (stagedConfig (s.stage c))))))

/-- Everything INIT can do, whatever the environment answers. -/
theorem initEffect_initChannel (c : Chan) (s : State) : InitEffect c s (initChannel c s) := by
  rcases initChannel_cases c s with ⟨hheld, e⟩ | ⟨hu, -, e⟩ | ⟨hu, -, e⟩
  · exact e ▸ .held hheld
  · exact e ▸ .failed .configError s.answers s.draws hu (.inl rfl)
  · obtain ⟨answers, draws, e' | e' | e'⟩ := acquire_cases c (stagedConfig (s.stage c)) s
    · exact e ▸ e' ▸ .failed _ answers draws hu (.inr (.inl rfl))
    · exact e ▸ e' ▸ .failed _ answers draws hu (.inr (.inr rfl))
    · exact e ▸ e' ▸ .initialised answers draws hu

/-- Settles O13: the three granted answers lead to the one success. -/
theorem initMakesTheChannelIdle : Obligations.InitMakesTheChannelIdle := by
  intro ch c s rest ha hc hu hrate hframes hanswers
  have hvalid := initChannel_valid (s := { s with lost := false }) hu (stagedConfig_valid hrate hframes)
  obtain ⟨hexec, hothers, hframe⟩ :=
    exec_of_rule (i := .init ch) ha hc (hvalid.trans (acquire_granted hanswers))
  exact ⟨_, hexec, rfl, rfl, rfl, State.chan_eq_of_chans_eq rfl, rfl, rfl, rfl, rfl, rfl, hothers, hframe⟩

/-- Settles O14: the configuration check, then the resources by the listed answers. -/
theorem initFailsWithoutEffect : Obligations.InitFailsWithoutEffect := by
  intro ch c s rest ha hc hu
  refine ⟨fun hbad => exec_of_raise ha hc (initChannel_invalid hu (stagedConfig_invalid hbad)),
    fun hrate hframes => ?_⟩
  have hvalid := initChannel_valid (s := { s with lost := false }) hu (stagedConfig_valid hrate hframes)
  refine ⟨fun hanswers => ?_, fun hanswers => ?_, fun hanswers => ?_⟩
  · exact (exec_of_rule (i := .init ch) ha hc (hvalid.trans (acquire_refusedBuffer0 hanswers))).1
  · exact (exec_of_rule (i := .init ch) ha hc (hvalid.trans (acquire_refusedBuffer1 hanswers))).1
  · exact (exec_of_rule (i := .init ch) ha hc (hvalid.trans (acquire_refusedDma hanswers))).1

namespace InitEffect

variable {c : Chan} {s t : State}

/-- R141: of a channel at its reset value, which is UNINIT, INIT makes one holding everything or leaves it so. -/
theorem all_or_nothing (h : InitEffect c s t) (hreset : s.chan c = Channel.reset) :
    (t.err = .ok ∧ (t.chan c).lstate = .idle ∧ (t.chan c).holdsBuf = #v[true, true] ∧ (t.chan c).holdsDma = true) ∨
      ((t.err = .configError ∨ t.err = .allocationError ∨ t.err = .resourceExhausted) ∧
        t.chan c = Channel.reset ∧ t.frontEnd = s.frontEnd) := by
  cases h with
  | held hheld => exact absurd (congrArg Channel.lstate hreset) hheld
  | failed e answers draws hu he => exact .inr ⟨he, hreset, rfl⟩
  | initialised => exact .inl ⟨rfl, by simp⟩

/-- INIT's row of the lifecycle table (R150). -/
theorem transition (h : InitEffect c s t) :
    ((s.chan c).lstate = .uninit →
      ((t.chan c).lstate = .idle ∧ t.err = .ok) ∨
      ((t.chan c).lstate = .uninit ∧
        (t.err = .configError ∨ t.err = .allocationError ∨ t.err = .resourceExhausted))) ∧
    ((s.chan c).lstate ≠ .uninit → t.chan c = s.chan c ∧ t.err = .badState) := by
  cases h with
  | held hheld => exact ⟨fun hu => absurd hu hheld, fun _ => ⟨rfl, rfl⟩⟩
  | failed e answers draws hu he => exact ⟨fun _ => .inr ⟨hu, he⟩, fun hheld => absurd hu hheld⟩
  | initialised answers draws hu => exact ⟨fun _ => .inl ⟨by simp, rfl⟩, fun hheld => absurd hu hheld⟩

/-- An INIT that changes the front end has succeeded and loaded its staged configuration (R142). -/
theorem frontEnd_changed (h : InitEffect c s t) (hne : t.frontEnd ≠ s.frontEnd) :
    (t.chan c).lstate = .idle ∧ t.err = .ok ∧
      t.frontEnd = (programCapture c (stagedConfig (s.stage c)) s).frontEnd := by
  cases h with
  | held | failed => exact absurd rfl hne
  | initialised => exact ⟨by simp, rfl, rfl⟩

end InitEffect

/-- Settles O15, by the effects INIT can have. -/
theorem initHoldsAllOrNothing : Obligations.InitHoldsAllOrNothing := by
  intro ch c s ha hc hreset
  obtain ⟨hexec, hothers, hframe⟩ := exec_of_rule (i := .init ch) ha hc rfl
  have heff := initEffect_initChannel c { s with lost := false }
  exact ⟨_, hexec, hothers, hframe, heff.all_or_nothing hreset⟩

/-! ## The shared line (R51, R144, R148) -/

theorem othersIrq_eq_true_iff (c : Chan) (s : State) :
    othersIrq c s = true ↔ ∃ x, x ≠ c ∧ (s.chan x).dmaIrqEn = true := by
  simp only [othersIrq, Bool.or_eq_true, Bool.and_eq_true, bne_iff_ne]
  constructor
  · rintro ((h | h) | h)
    · exact ⟨0, h.1.symm, h.2⟩
    · exact ⟨1, h.1.symm, h.2⟩
    · exact ⟨2, h.1.symm, h.2⟩
  · rintro ⟨x, hne, hon⟩
    rcases chan_cases x with rfl | rfl | rfl
    · exact .inl (.inl ⟨hne.symm, hon⟩)
    · exact .inl (.inr ⟨hne.symm, hon⟩)
    · exact .inr ⟨hne.symm, hon⟩

/-- The line stays on only where it was on and another channel uses it. -/
theorem lineEn_and_othersIrq_iff (c : Chan) (s : State) :
    (s.lineEn && othersIrq c s) = true ↔ s.lineEn = true ∧ ∃ x, x ≠ c ∧ (s.chan x).dmaIrqEn = true := by
  rw [Bool.and_eq_true, othersIrq_eq_true_iff]

/-! ## DEINIT (R144) -/

/-- Settles O16. -/
theorem deinitTearsTheChannelDown : Obligations.DeinitTearsTheChannelDown := by
  intro ch c s ha hc
  refine ⟨fun hu => exec_of_raise ha hc (deinitChannel_uninit hu), fun hheld => ?_⟩
  obtain ⟨hexec, hothers, hframe⟩ := exec_of_rule (i := .deinit ch) ha hc (deinitChannel_held hheld)
  exact ⟨_, hexec, rfl, rfl, rfl, State.chan_eq_of_chans_eq rfl, lineEn_and_othersIrq_iff c _, rfl, ⟨rfl, rfl⟩,
    hothers, hframe⟩

/-! ## START (R146, R147) -/

/-- The channel START leaves, with Arm's two ends as one (R147). -/
theorem startedChannel_eq (x : Channel) : startedChannel x =
    { x with
      lstate := .active, frs := some (Config.filterInit x.fp), w := 0, r := 0, pendCount := 0#32, readyPend := false,
      ovr := false, dmaIrqEn := true, capEn := true, dmaProg := 0, dmaArmed := decide (x.rawSize ≠ 0),
      dmaPend := decide (x.rawSize = 0) } := by
  by_cases hempty : x.rawSize = 0
  · simp [startedChannel, Channel.arm, hempty]
  · simp [startedChannel, Channel.arm, hempty]

/-- Settles O17. -/
theorem startBeginsCapture : Obligations.StartBeginsCapture := by
  intro ch c s ha hc
  refine ⟨fun hne => exec_of_raise ha hc (startChannel_refused hne), fun hidle => ?_⟩
  obtain ⟨hexec, hothers, hframe⟩ := exec_of_rule (i := .start ch) ha hc (startChannel_idle hidle)
  exact ⟨_, hexec, rfl, rfl, rfl, rfl, (State.chan_modChan_self _ c _).trans (startedChannel_eq _), rfl, rfl,
    ⟨rfl, rfl⟩, hothers, hframe⟩

/-! ## STOP (R148, R149) -/

/-- Settles O18. -/
theorem stopHaltsTheChannel : Obligations.StopHaltsTheChannel := by
  intro ch c s ha hc
  refine ⟨fun hu => exec_of_raise ha hc (stopChannel_uninit _ hu),
    fun hidle => exec_of_raise ha hc (stopChannel_idle _ hidle), fun hactive => ?_⟩
  obtain ⟨hexec, hothers, hframe⟩ := exec_of_rule (i := .stop ch) ha hc (stopChannel_active hactive)
  exact ⟨_, hexec, rfl, rfl, rfl, State.chan_eq_of_chans_eq rfl, lineEn_and_othersIrq_iff c _, rfl, rfl, ⟨rfl, rfl⟩,
    hothers, hframe⟩

/-- The asymmetric STOP of an ACTIVE channel 0 (R149). -/
theorem stopChannel_asymmetric_zero {s : State} (h : (s.chan 0).lstate = .active) :
    stopChannel true 0 s = finish
      { s.setChan 0 { s.chan 0 with lstate := .idle, capEn := false, dmaArmed := false, dmaPend := false } with
        lineEn := false } := by
  simp only [stopChannel, h]
  simp [stopAsymmetric, State.modChan, State.setChan, State.chan]

/-- The asymmetric STOP of any other ACTIVE channel (R149). -/
theorem stopChannel_asymmetric_ne {c : Chan} {s : State} (hc : c ≠ 0) (h : (s.chan c).lstate = .active) :
    stopChannel true c s = finish (s.setChan c { s.chan c with lstate := .idle, capEn := false }) := by
  simp [stopChannel, h, hc, stopAsymmetric, State.modChan, State.setChan_setChan]

/-- Settles O19: channel 0 and the others. -/
theorem asymmetricStopHaltsChannelZeroOnly : Obligations.AsymmetricStopHaltsChannelZeroOnly := by
  intro c s
  refine ⟨stopChannel_uninit true, stopChannel_idle true, fun hactive => ?_⟩
  by_cases hc : c = 0
  · subst hc
    rw [stopChannel_asymmetric_zero hactive]
    exact ⟨rfl, rfl, otherChannels_setChan 0 s _, ⟨rfl, rfl, rfl, rfl, rfl, rfl, rfl, fun _ => rfl⟩,
      fun _ => ⟨rfl, State.chan_setChan_self s 0 _⟩, fun hne => absurd rfl hne⟩
  · rw [stopChannel_asymmetric_ne hc hactive]
    exact ⟨rfl, rfl, otherChannels_setChan c s _, ⟨rfl, rfl, rfl, rfl, rfl, rfl, rfl, fun _ => rfl⟩,
      fun hzero => absurd hzero hc, fun _ => ⟨rfl, State.chan_setChan_self s c _⟩⟩

/-! ## The lifecycle table (R150) -/

/-- Settles O11. -/
theorem wrongStateReportsBadState : Obligations.WrongStateReportsBadState := by
  intro i c s ha hc
  refine ⟨fun hu hinit hdeinit => exec_of_raise ha hc (ruleOf_uninit hu hinit hdeinit), ?held, ?active⟩
  case held =>
    rintro hheld ⟨ch, rfl⟩
    exact exec_of_raise ha hc (initChannel_held hheld)
  case active =>
    rintro hactive ⟨ch, rfl⟩
    have hne : (s.chan c).lstate ≠ .idle := by simp [hactive]
    exact exec_of_raise ha hc (startChannel_refused hne)

section Table

variable {c : Chan} {s : State}

theorem deinitChannel_transition :
    ((deinitChannel c s).chan c).lstate = .uninit ∧ (deinitChannel c s).err = .ok ∧
      ((s.chan c).lstate = .uninit → (deinitChannel c s).chan c = s.chan c) := by
  by_cases h : (s.chan c).lstate = .uninit
  · rw [deinitChannel_uninit h]
    exact ⟨h, rfl, fun _ => rfl⟩
  · rw [deinitChannel_held h]
    exact ⟨congrArg Channel.lstate (State.chan_setChan_self s c Channel.reset), rfl, fun hu => absurd hu h⟩

theorem startChannel_transition :
    ((s.chan c).lstate = .idle → ((startChannel c s).chan c).lstate = .active ∧ (startChannel c s).err = .ok) ∧
    ((s.chan c).lstate ≠ .idle → (startChannel c s).chan c = s.chan c ∧ (startChannel c s).err = .badState) := by
  refine ⟨fun h => ?_, fun h => ?_⟩
  · rw [startChannel_idle h]
    exact ⟨(congrArg Channel.lstate (State.chan_modChan_self s c _)).trans (startedChannel_lstate _), rfl⟩
  · rw [startChannel_refused h]
    exact ⟨rfl, rfl⟩

theorem stopChannel_transition :
    ((s.chan c).lstate = .uninit →
      (stopChannel false c s).chan c = s.chan c ∧ (stopChannel false c s).err = .badState) ∧
    ((s.chan c).lstate = .idle → (stopChannel false c s).chan c = s.chan c ∧ (stopChannel false c s).err = .ok) ∧
    ((s.chan c).lstate = .active →
      ((stopChannel false c s).chan c).lstate = .idle ∧ (stopChannel false c s).err = .ok) := by
  refine ⟨fun h => ?_, fun h => ?_, fun h => ?_⟩
  · rw [stopChannel_uninit _ h]
    exact ⟨rfl, rfl⟩
  · rw [stopChannel_idle _ h]
    exact ⟨rfl, rfl⟩
  · rw [stopChannel_active h]
    exact ⟨congrArg Channel.lstate (State.chan_modChan_self s c fun x => { x.halt with lstate := .idle }), rfl⟩

/-- A setter that keeps the lifecycle state (R180 to R183). -/
theorem setter_transition {f : Channel → Channel} (hf : (f (s.chan c)).lstate = (s.chan c).lstate) :
    ((setter f c s).chan c).lstate = (s.chan c).lstate ∧
      (setter f c s).err = if (s.chan c).lstate = .uninit then .badState else .ok := by
  rcases setter_cases f c s with ⟨hu, e⟩ | ⟨hheld, e⟩
  · rw [e, if_pos hu]
    exact ⟨rfl, rfl⟩
  · rw [e, if_neg hheld]
    exact ⟨by simpa using hf, rfl⟩

theorem ackChannel_transition :
    ((ackChannel c s).chan c).lstate = (s.chan c).lstate ∧
      (ackChannel c s).err = if (s.chan c).lstate = .uninit then .badState else .ok := by
  rcases ackChannel_cases c s with ⟨hu, e⟩ | ⟨hheld, e⟩
  · rw [e, if_pos hu]
    exact ⟨rfl, rfl⟩
  · rw [e, if_neg hheld]
    exact ⟨by simp, rfl⟩

/-- READ's alignment check is of the address as a number (R202). -/
theorem getLsbD_zero_eq_true_iff {w : Nat} (x : BitVec w) : x.getLsbD 0 = true ↔ x.toNat % 2 = 1 := by
  rw [BitVec.getLsbD, Nat.testBit_zero, decide_eq_true_iff]

theorem consumeBuffer_chan (c : Chan) (s : State) :
    (consumeBuffer c s).chan c = { s.chan c with r := (s.chan c).r + 1 } :=
  State.chan_eq_of_chans_eq rfl

/-- READ's code, its checks in the order of R202. -/
theorem readChannel_transition :
    ((readChannel c s).chan c).lstate = (s.chan c).lstate ∧
      (readChannel c s).err = if (s.chan c).lstate = .uninit then .badState
        else if s.arg0.toNat % 2 = 1 then .misaligned
        else if 2 ^ 32 < s.arg0.toNat + 2 * sampleCount (s.chan c).cfg s.arg1 then .addressRange else .ok := by
  simp only [← getLsbD_zero_eq_true_iff]
  rcases readChannel_cases c s with ⟨hu, e⟩ | ⟨hheld, ⟨hodd, e⟩ | ⟨heven, hread⟩⟩
  · rw [e, if_pos hu]
    exact ⟨rfl, rfl⟩
  · rw [e, if_neg hheld, if_pos hodd]
    exact ⟨rfl, rfl⟩
  rw [if_neg hheld, if_neg (Bool.eq_false_iff.1 heven)]
  rcases hread with ⟨hover, e⟩ | ⟨hfits, hread⟩
  · rw [e, if_pos hover]
    exact ⟨rfl, rfl⟩
  rw [if_neg (Nat.not_lt.2 hfits)]
  have hconsumed : ((consumeBuffer c s).chan c).lstate = (s.chan c).lstate := by rw [consumeBuffer_chan]
  rcases hread with ⟨-, e⟩ | ⟨-, ⟨-, e⟩ | ⟨-, e⟩⟩
  · rw [e]
    exact ⟨rfl, rfl⟩
  · rw [e]
    exact ⟨hconsumed, rfl⟩
  · rw [e]
    exact ⟨hconsumed, rfl⟩

end Table

/-- Settles O20, by each command's row. -/
theorem lifecycleTransitions : Obligations.LifecycleTransitions := by
  intro i c s ha hc
  refine ⟨_, exec_accepting ha hc, ?_⟩
  cases i with
  | init => exact (initEffect_initChannel c { s with lost := false }).transition
  | deinit => exact deinitChannel_transition (s := { s with lost := false })
  | start => exact startChannel_transition (s := { s with lost := false })
  | stop => exact stopChannel_transition (s := { s with lost := false })
  | setrdy | setmaxv | setgain | setvol => exact setter_transition (s := { s with lost := false }) rfl
  | read => exact readChannel_transition (s := { s with lost := false })
  | ack => exact ackChannel_transition (s := { s with lost := false })

/-! ## The writer of the front end (R142; log 19) -/

/-- A command that changes the front end is INIT. -/
theorem CommandEffect.frontEnd {s t : State} {c : Chan} {i : Instr} (h : CommandEffect s c i t)
    (hne : t.frontEnd ≠ s.frontEnd) : ∃ ch, i = .init ch := by
  cases h with
  | initialised ch => exact ⟨ch, rfl⟩
  | _ => exact absurd rfl hne

/-- A move that changes the front end is an accepted INIT. -/
theorem StepEffect.frontEnd {s t : State} {e : Event} (h : StepEffect s e t) (hne : t.frontEnd ≠ s.frontEnd) :
    ∃ (w : Word) (ch : BitVec 2) (c : Chan), e = .write 0x00 4 w ∧ s.accepting ∧ decode w = .instr (.init ch) ∧
      chanOf ch = some c := by
  cases h with
  | command w i c t ha hdec hch heff =>
    obtain ⟨ch, rfl⟩ := heff.frontEnd hne
    exact ⟨w, ch, c, rfl, ha, hdec, hch⟩
  | stored r v =>
    obtain ⟨-, -, -, -, -, -, -, -, hfront, -⟩ := storeReg_frame s r v
    exact absurd hfront hne
  | decoded =>
    obtain ⟨-, -, -, -, -, -, hfront, -⟩ := performChunk_frame s
    exact absurd hfront hne
  | _ => exact absurd rfl hne

/-- An accepted command's CMD write leaves what its rule leaves. -/
theorem runEvent_write_instr {s t : State} {w : Word} {i : Instr} {c : Chan} (ha : s.accepting)
    (hdec : decode w = .instr i) (hch : chanOf i.ch = some c) (h : runEvent (.write 0x00 4 w) s = .next t) :
    t = ruleOf i c { s with lost := false } := by
  have hrun : runEvent (.write 0x00 4 w) s = exec i s := by
    simp only [runEvent, ha.1, hostWrite, show regAt 0x00 4 = .ok .cmd from regAt_offset .cmd]
    exact issue_instr hdec s
  rw [hrun, exec_accepting ha hch] at h
  exact (Host.Outcome.next.inj h).symm

/-- Settles O54: such a step is an accepted INIT, and of INIT's effects it is the success. -/
theorem frontEndIsLoadedByInitOnly : Obligations.FrontEndIsLoadedByInitOnly := by
  intro s t hstep hne
  obtain ⟨agenda, draws, htake⟩ := takeEvent_spec s
  have hrun : runEvent (takeEvent s).1 { s with agenda := agenda, draws := draws } = .next t := htake ▸ hstep
  obtain ⟨w, ch, c, hevent, ha, hdec, hch⟩ := (StepEffect.of_runEvent hrun).frontEnd hne
  have hinit := runEvent_write_instr ha hdec hch (hevent ▸ hrun)
  have heff : InitEffect c { s with agenda := agenda, draws := draws, lost := false } t :=
    hinit ▸ initEffect_initChannel c _
  obtain ⟨hidle, herr, hfront⟩ := heff.frontEnd_changed hne
  exact ⟨w, ch, c, hevent, hdec, hch, hidle, herr, hfront⟩

end Sys2Proof.Machine
end

section
/-!
PROOFS. Ready handler and filter parameters (41_filter_config.md): what an accepted setter answers, and what no step
but reset changes while a READ is in progress.
-/

namespace Sys2Proof.Machine

/-! ## Setters (R180 to R183) -/

/-- All that a successful setter on channel `c` does, but for the one value it writes in the channel. -/
def setterFrame (c : Chan) (s t : State) : Prop :=
  t.err = .ok ∧ t.result = 0#32 ∧ t.lost = false ∧ t.lineEn = s.lineEn ∧ t.rd = s.rd ∧ t.frontEnd = s.frontEnd ∧
    noDraw s t ∧ otherChannels c s t ∧ commandFrame s t

section Setter

variable {i : Instr} {f : Channel → Channel} {c : Chan} {s : State}

theorem exec_setter_uninit (hrule : ruleOf i = setter f) (ha : s.accepting) (hc : chanOf i.ch = some c)
    (h : (s.chan c).lstate = .uninit) : exec i s = .next (reportOnly .badState s) :=
  exec_of_raise ha hc (hrule ▸ setter_uninit f h)

theorem setter_held (f : Channel → Channel) (h : (s.chan c).lstate ≠ .uninit) :
    setter f c s = finish (s.modChan c f) :=
  whenInit_held _ h

theorem exec_setter_held (hrule : ruleOf i = setter f) (ha : s.accepting) (hc : chanOf i.ch = some c)
    (h : (s.chan c).lstate ≠ .uninit) :
    ∃ t, exec i s = .next t ∧ t.chan c = f (s.chan c) ∧ setterFrame c s t := by
  have hset : ruleOf i c { s with lost := false } = finish (({ s with lost := false } : State).modChan c f) :=
    hrule ▸ setter_held f h
  obtain ⟨hexec, hothers, hframe⟩ := exec_of_rule ha hc hset
  exact ⟨_, hexec, State.chan_eq_of_chans_eq rfl, rfl, rfl, rfl, rfl, rfl, rfl, ⟨rfl, rfl⟩, hothers, hframe⟩

end Setter

/-- Settles O21. -/
theorem setrdySetsTheReadyEnable : Obligations.SetrdySetsTheReadyEnable := by
  intro ch en c s ha hc
  refine ⟨exec_setter_uninit (i := .setrdy ch en) rfl ha hc, fun hheld => ?_⟩
  obtain ⟨t, hexec, hchan, herr, hresult, hlost, hrest⟩ := exec_setter_held (i := .setrdy ch en) rfl ha hc hheld
  exact ⟨t, hexec, herr, hresult, hlost, hchan, hrest⟩

/-- Settles O22: the three setters differ in the value they write only. -/
theorem filterSettersSetTheirValue : Obligations.FilterSettersSetTheirValue := by
  intro ch imm c s ha hc
  refine ⟨fun hu => ⟨exec_setter_uninit (i := .setmaxv ch imm) rfl ha hc hu,
    exec_setter_uninit (i := .setgain ch imm) rfl ha hc hu, exec_setter_uninit (i := .setvol ch imm) rfl ha hc hu⟩,
    fun hheld => ?_⟩
  obtain ⟨tm, hmaxv, hm, hmframe⟩ := exec_setter_held (i := .setmaxv ch imm) rfl ha hc hheld
  obtain ⟨tg, hgain, hg, hgframe⟩ := exec_setter_held (i := .setgain ch imm) rfl ha hc hheld
  obtain ⟨tv, hvol, hv, hvframe⟩ := exec_setter_held (i := .setvol ch imm) rfl ha hc hheld
  refine ⟨tm, tg, tv, hmaxv, hm, hgain, hg, hvol, hv, ?_⟩
  rintro t (rfl | rfl | rfl)
  · exact hmframe
  · exact hgframe
  · exact hvframe

/-! ## While a READ is in progress (R184, R302) -/

/-- A channel's configuration, filter parameters, volume and lifecycle state are the same. -/
def Channel.sameSettings (x y : Channel) : Prop :=
  y.cfg = x.cfg ∧ y.fp = x.fp ∧ y.vol = x.vol ∧ y.lstate = x.lstate

/-- What a READ latches (R202) is the same. -/
def ReadEngine.sameOperands (rd rd' : ReadEngine) : Prop :=
  rd'.ch = rd.ch ∧ rd'.buf = rd.buf ∧ rd'.addr = rd.addr ∧ rd'.n = rd.n

theorem Channel.sameSettings_refl (x : Channel) : x.sameSettings x := ⟨rfl, rfl, rfl, rfl⟩

theorem ReadEngine.sameOperands_refl (rd : ReadEngine) : rd.sameOperands rd := ⟨rfl, rfl, rfl, rfl⟩

/-- Only a reset or a CMD write changes a channel's settings: the agents and IRQ_STAT write other fields. -/
theorem ChannelEffect.settings {c : Chan} {x y : Channel} {e : Event} (h : ChannelEffect c x e y) :
    e = .reset ∨ (∃ w, e = .write 0x00 4 w) ∨ x.sameSettings y := by
  cases h with
  | reset => exact .inl rfl
  | command w => exact .inr (.inl ⟨w, rfl⟩)
  | unchanged | irqCleared | decoded => exact .inr (.inr ⟨rfl, rfl, rfl, rfl⟩)
  | captured v => exact .inr (.inr ⟨x.dmaByte_cfg v, x.dmaByte_fp v, x.dmaByte_vol v, x.dmaByte_lstate v⟩)
  | completed => exact .inr (.inr ⟨x.swap_cfg, x.swap_fp, x.swap_vol, x.swap_lstate⟩)

/-- A chunk moves the engine's counter on and can end the READ; the operands stay (R203). -/
theorem performChunk_sameOperands (s : State) : s.rd.sameOperands (performChunk s).rd := by
  obtain ⟨-, -, -, hlast, hmore⟩ := performChunk_spec s
  by_cases hend : (s.rd.k + 1) * (s.chan s.rd.ch).stride = s.rd.n
  · rw [(hlast hend).1]
    exact ⟨rfl, rfl, rfl, rfl⟩
  · rw [(hmore hend).1]
    exact ⟨rfl, rfl, rfl, rfl⟩

theorem State.accepting.not_busy {s : State} (ha : s.accepting) : s.rd.busy ≠ true :=
  Bool.eq_false_iff.1 ha.2

namespace StepEffect

variable {s t : State} {e : Event}

/-- A CMD write during a READ is dropped, with LOST set (R302). -/
theorem cmdWrite_of_busy (h : StepEffect s e t) (hbusy : s.rd.busy = true) {w : Word} (he : e = .write 0x00 4 w) :
    t = { s with lost := true } := by
  cases h with
  | dropped => rfl
  | rejected w e ha => exact absurd hbusy ha.not_busy
  | command w i c t ha => exact absurd hbusy ha.not_busy
  | stored r v hf hreg =>
    have hoff : regAt 0x00 4 = .ok r := (regAt_eq_ok_iff _ _ _).2 ⟨rfl, (Event.write.inj he).1.symm⟩
    exact absurd (Except.ok.inj (hoff.symm.trans (regAt_offset .cmd))) hreg
  | disabled e hmove =>
    rcases hmove with h | h | ⟨_, _, h⟩ <;> exact nomatch h.symm.trans he
  | _ => exact nomatch he

theorem sameSettings_of_busy (h : StepEffect s e t) (hbusy : s.rd.busy = true) (hreset : e ≠ .reset) (c : Chan) :
    (s.chan c).sameSettings (t.chan c) := by
  rcases (h.chan c).settings with he | ⟨w, he⟩ | hsame
  · exact absurd he hreset
  · rw [h.cmdWrite_of_busy hbusy he]
    exact (s.chan c).sameSettings_refl
  · exact hsame

theorem sameOperands_of_busy (h : StepEffect s e t) (hbusy : s.rd.busy = true) (hreset : e ≠ .reset) :
    s.rd.sameOperands t.rd := by
  cases h with
  | reset => exact absurd rfl hreset
  | rejected w e ha => exact absurd hbusy ha.not_busy
  | command w i c t ha => exact absurd hbusy ha.not_busy
  | stored r v =>
    obtain ⟨-, -, -, -, -, hrd, -⟩ := storeReg_frame s r v
    exact hrd ▸ s.rd.sameOperands_refl
  | decoded => exact performChunk_sameOperands s
  | dropped | loaded | disabled | captured | completed | busFaulted | hostStored | hostLoaded =>
    exact s.rd.sameOperands_refl

end StepEffect

/-- Settles O50, by the effects a step can have. -/
theorem busyFreezesTheReadsOperands : Obligations.BusyFreezesTheReadsOperands := by
  intro s t hbusy hstep hreset
  obtain ⟨_, _, heff⟩ := StepEffect.of_step hstep
  exact ⟨heff.sameSettings_of_busy hbusy hreset, heff.sameOperands_of_busy hbusy hreset⟩

end Sys2Proof.Machine
end

section
/-!
PROOFS. The read path (42_read_decode.md): READ's sample count and its checks, the chunk step, a whole READ as its
chunks one after another, what the decoder depends on, and the bytes a reachable READ reads.
-/

namespace Sys2Proof.Machine

/-! ## The sample count of a READ (R201) -/

/-- A multiple of `d` up to `b` is a multiple of it up to the greatest one. -/
theorem le_div_mul_of_mod_eq_zero {m d b : Nat} (hmod : m % d = 0) (hle : m ≤ b) : m ≤ b / d * d :=
  calc m = m / d * d := (Nat.div_mul_cancel (Nat.dvd_of_mod_eq_zero hmod)).symm
    _ ≤ b / d * d := Nat.mul_le_mul_right d (Nat.div_le_div_right hle)

/-- Settles O23: the count is the smaller of the greatest multiple within the request and the buffer's own size. -/
theorem sampleCountIsTheGreatestMultiple : Obligations.SampleCountIsTheGreatestMultiple := by
  intro cfg max hvalid
  have hrequest : sampleCount cfg max ≤ max.toNat / strideOf cfg.rate * strideOf cfg.rate := Nat.min_le_left _ _
  exact ⟨sampleCount_mod_stride hvalid max, hrequest.trans (Nat.div_mul_le_self _ _), Nat.min_le_right _ _,
    fun m hmod hmax hbufsz => Nat.le_min.2 ⟨le_div_mul_of_mod_eq_zero hmod hmax, hbufsz⟩⟩

/-! ## READ (R202) -/

section Read

variable {c : Chan} {s : State}

/-- READ of a channel that is not UNINIT: the checks in the order of R202, the alignment as a number's. -/
theorem readChannel_held (h : (s.chan c).lstate ≠ .uninit) :
    readChannel c s =
      if s.arg0.toNat % 2 = 1 then raise .misaligned s
      else if 2 ^ 32 < s.arg0.toNat + 2 * sampleCount (s.chan c).cfg s.arg1 then raise .addressRange s
      else if (s.chan c).r = (s.chan c).w then finish s
      else if sampleCount (s.chan c).cfg s.arg1 = 0 then consumeBuffer c s
      else { consumeBuffer c s with
        rd := { busy := true, ch := c, buf := (s.chan c).r, addr := s.arg0,
                n := sampleCount (s.chan c).cfg s.arg1, k := 0 } } := by
  rw [readChannel, whenInit_held _ h]
  simp only [beginRead, consumeBuffer, getLsbD_zero_eq_true_iff]

theorem readChannel_misaligned (hheld : (s.chan c).lstate ≠ .uninit) (hodd : s.arg0.toNat % 2 = 1) :
    readChannel c s = raise .misaligned s := by
  rw [readChannel_held hheld, if_pos hodd]

theorem readChannel_addressRange (hheld : (s.chan c).lstate ≠ .uninit) (heven : s.arg0.toNat % 2 = 0)
    (hover : 2 ^ 32 < s.arg0.toNat + 2 * sampleCount (s.chan c).cfg s.arg1) :
    readChannel c s = raise .addressRange s := by
  rw [readChannel_held hheld, if_neg (by omega), if_pos hover]

theorem readChannel_empty (hheld : (s.chan c).lstate ≠ .uninit) (heven : s.arg0.toNat % 2 = 0)
    (hfits : s.arg0.toNat + 2 * sampleCount (s.chan c).cfg s.arg1 ≤ 2 ^ 32) (hnone : (s.chan c).r = (s.chan c).w) :
    readChannel c s = finish s := by
  rw [readChannel_held hheld, if_neg (by omega), if_neg (Nat.not_lt.2 hfits), if_pos hnone]

/-- READ of a published buffer: it is consumed, and the engine begins where there are samples to do. -/
theorem readChannel_published (hheld : (s.chan c).lstate ≠ .uninit) (heven : s.arg0.toNat % 2 = 0)
    (hfits : s.arg0.toNat + 2 * sampleCount (s.chan c).cfg s.arg1 ≤ 2 ^ 32) (hpub : (s.chan c).r ≠ (s.chan c).w) :
    readChannel c s = { consumeBuffer c s with
      rd := if sampleCount (s.chan c).cfg s.arg1 = 0 then s.rd
        else { busy := true, ch := c, buf := (s.chan c).r, addr := s.arg0,
               n := sampleCount (s.chan c).cfg s.arg1, k := 0 } } := by
  rw [readChannel_held hheld, if_neg (by omega), if_neg (Nat.not_lt.2 hfits), if_neg hpub]
  split <;> rfl

end Read

/-- Settles O24, by READ's checks in order. -/
theorem readConsumesThePublishedBuffer : Obligations.ReadConsumesThePublishedBuffer := by
  intro ch c s n ha hc hn
  have hcount : n = sampleCount (s.chan c).cfg s.arg1 := hn
  subst hcount
  refine ⟨fun hu => exec_of_raise ha hc (readChannel_uninit hu),
    fun hheld hodd => exec_of_raise ha hc (readChannel_misaligned hheld hodd),
    fun hheld heven hover => exec_of_raise ha hc (readChannel_addressRange hheld heven hover),
    fun hheld heven hfits => ⟨fun hnone => exec_of_raise ha hc (readChannel_empty hheld heven hfits hnone),
      fun hpub => ?_⟩⟩
  obtain ⟨hexec, hothers, hframe⟩ :=
    exec_of_rule (i := .read ch) ha hc (readChannel_published hheld heven hfits hpub)
  exact ⟨_, hexec, rfl, rfl, rfl, State.chan_eq_of_chans_eq rfl, rfl, rfl, rfl, ⟨rfl, rfl⟩, hothers, hframe⟩

/-! ## The decoder, chunk by chunk (R200, R203) -/

/-- The raw bytes of chunk `k` of buffer `b` (R203). -/
def rawChunk (c : Chan) (x : Channel) (b : BufIdx) (k : Nat) : List Byte :=
  rawRead c x b (k * x.chunkBytes) x.chunkBytes

section Decode

variable (c : Chan) (x : Channel) (b : BufIdx) (st : FState) (k m : Nat)

theorem decodeChunks_cons : decodeChunks c x b st k (m + 1) =
    filterPcm x.stride (rawChunk c x b k) x.vol x.fp st ++
      decodeChunks c x b (Config.filterNext (rawChunk c x b k) x.vol x.fp st) (k + 1) m := rfl

theorem decodeState_cons : decodeState c x b st k (m + 1) =
    decodeState c x b (Config.filterNext (rawChunk c x b k) x.vol x.fp st) (k + 1) m := rfl

theorem decodeChunks_one :
    decodeChunks c x b st k 1 = filterPcm x.stride (rawChunk c x b k) x.vol x.fp st :=
  List.append_nil _

/-- The last of `m + 1` chunks is decoded from the running state the first `m` leave. -/
theorem decodeChunks_snoc : decodeChunks c x b st k (m + 1) =
    decodeChunks c x b st k m ++
      filterPcm x.stride (rawChunk c x b (k + m)) x.vol x.fp (decodeState c x b st k m) := by
  induction m generalizing st k with
  | zero => exact decodeChunks_one c x b st k
  | succ m ih =>
    rw [decodeChunks_cons, ih, decodeChunks_cons, decodeState_cons, List.append_assoc, Nat.succ_add_eq_add_succ]

theorem decodeState_snoc : decodeState c x b st k (m + 1) =
    Config.filterNext (rawChunk c x b (k + m)) x.vol x.fp (decodeState c x b st k m) := by
  induction m generalizing st k with
  | zero => rfl
  | succ m ih => rw [decodeState_cons, ih, decodeState_cons, Nat.succ_add_eq_add_succ]

@[simp] theorem decodeChunks_length : (decodeChunks c x b st k m).length = m * x.stride := by
  induction m with
  | zero => simp [decodeChunks]
  | succ m ih => rw [decodeChunks_snoc, List.length_append, ih, filterPcm_length, Nat.succ_mul]

end Decode

/-- The next chunk of the read engine, decoded from the running state of its channel. -/
theorem chunkPcm_eq {s : State} {st : FState} (hst : (s.chan s.rd.ch).frs = some st) :
    chunkPcm s = filterPcm (s.chan s.rd.ch).stride (rawChunk s.rd.ch (s.chan s.rd.ch) s.rd.buf s.rd.k)
      (s.chan s.rd.ch).vol (s.chan s.rd.ch).fp st := by
  rw [chunkPcm, Channel.filterState, hst]
  rfl

theorem chunkFilterState_eq {s : State} {st : FState} (hst : (s.chan s.rd.ch).frs = some st) :
    chunkFilterState s = Config.filterNext (rawChunk s.rd.ch (s.chan s.rd.ch) s.rd.buf s.rd.k)
      (s.chan s.rd.ch).vol (s.chan s.rd.ch).fp st := by
  rw [chunkFilterState, Channel.filterState, hst]
  rfl

/-! ## The chunk step (R203) -/

theorem chunkStep_idle {s : State} (writable : Nat → Nat → Bool) (h : s.rd.busy = false) :
    chunkStep writable s = s := by
  simp [chunkStep, h]

theorem chunkStep_admitted {writable : Nat → Nat → Bool} {s : State} (hbusy : s.rd.busy = true)
    (hadm : ∀ i, i < (s.chan s.rd.ch).stride → admits writable (chunkBase s + 2 * i) = true) :
    chunkStep writable s = performChunk s := by
  have hchunk : chunkAdmitted writable s = true :=
    List.all_eq_true.2 fun i hi => hadm i (List.mem_range.1 hi)
  simp [chunkStep, hbusy, hchunk]

/-- Sample `i` of a chunk in host memory (R88). -/
theorem read_performChunk {s : State} {st : FState} (hst : (s.chan s.rd.ch).frs = some st) {i : Nat}
    (hi : i < (s.chan s.rd.ch).stride) :
    let v := Config.filterSample (rawChunk s.rd.ch (s.chan s.rd.ch) s.rd.buf s.rd.k)
      (s.chan s.rd.ch).vol (s.chan s.rd.ch).fp st i
    (performChunk s).mem.read (chunkBase s + 2 * i) = some (v.extractLsb' 0 8) ∧
      (performChunk s).mem.read (chunkBase s + 2 * i + 1) = some (v.extractLsb' 8 8) := by
  obtain ⟨hmem, -⟩ := performChunk_spec s
  have hread := Memory.read_writeSamples (chunkPcm s) s.mem (chunkBase s) i (by rwa [chunkPcm_length])
  simpa [hmem, chunkPcm_eq hst, filterPcm] using hread

/-- A chunk writes no byte outside its samples (R203). -/
theorem read_performChunk_outside {s : State} {a : Nat}
    (h : a < chunkBase s ∨ chunkBase s + 2 * (s.chan s.rd.ch).stride ≤ a) :
    (performChunk s).mem.read a = s.mem.read a := by
  obtain ⟨hmem, -⟩ := performChunk_spec s
  rw [hmem]
  exact Memory.read_writeSamples_outside _ _ _ _ (by rwa [chunkPcm_length])

theorem isOpen_settle_iff (lo hi : Nat) (gs : List OpenRange) (a : Nat) :
    isOpen (settle lo hi gs) a = true ↔ isOpen gs a = true ∧ ¬ (lo ≤ a ∧ a < hi) := by
  rw [isOpen_settle, Bool.and_eq_true, Bool.not_eq_true', ← Bool.not_eq_true, Bool.and_eq_true, decide_eq_true_iff,
    decide_eq_true_iff]

/-- Settles O25: an admitted chunk is performed, and `performChunk`'s laws say what it leaves. -/
theorem chunkWritesItsSamples : Obligations.ChunkWritesItsSamples := by
  intro writable s t x base bytes st ht hx hbase hbytes hst
  have hbase' : base = chunkBase s := by rw [hbase, hx, Nat.mul_assoc]; rfl
  have hbytes' : bytes = rawChunk s.rd.ch x s.rd.buf s.rd.k := hbytes
  subst ht hx hbase' hbytes'
  refine ⟨chunkStep_idle writable, fun hbusy hadm => ?_⟩
  obtain ⟨-, hchan, hothers, hlast, hmore⟩ := performChunk_spec s
  obtain ⟨hlost, hfault, harg0, harg1, hstaging, hline, hfront, hagenda, hanswers, hdraws, hdata⟩ :=
    performChunk_frame s
  rw [chunkStep_admitted hbusy hadm]
  refine ⟨fun j hj => read_performChunk hst hj, fun a ha => read_performChunk_outside ha, ?_, hothers, hlast, hmore,
    hlost, hfault, harg0, harg1, hstaging, hline, hfront, hagenda, ⟨hanswers, hdraws⟩, hdata, fun a => ?_⟩
  · rw [hchan, chunkFilterState_eq hst]
  · rw [performChunk_openRanges]
    exact isOpen_settle_iff _ _ _ a

/-! ## A READ that nothing interrupts (R203, R204, R206) -/

theorem Memory.writeSamples_append (m : Memory) (a : Nat) (xs ys : List Half) :
    m.writeSamples a (xs ++ ys) = (m.writeSamples a xs).writeSamples (a + 2 * xs.length) ys := by
  induction xs generalizing m a with
  | nil => rfl
  | cons x xs ih =>
    have haddr : a + 2 + 2 * xs.length = a + 2 * (x :: xs).length := by simp only [List.length_cons]; omega
    rw [List.cons_append, Memory.writeSamples, ih, haddr, Memory.writeSamples]

theorem chunkSteps_succ (writable : Nat → Nat → Bool) (j : Nat) (s : State) :
    chunkSteps writable (j + 1) s = chunkStep writable (chunkSteps writable j s) := by
  induction j generalizing s with
  | zero => rfl
  | succ j ih => exact ih (chunkStep writable s)

/-- `t` is what `j` of the `m` chunks of the READ of `s` leave, `x` being its channel there and `st` its running
state. -/
structure ReadProgress (s : State) (x : Channel) (st : FState) (m j : Nat) (t : State) : Prop where
  engine : t.rd = { s.rd with busy := decide (j < m), k := j }
  memory : t.mem = Memory.writeSamples s.mem s.rd.addr.toNat (decodeChunks s.rd.ch x s.rd.buf st 0 j)
  channel : t.chan s.rd.ch = { x with frs := some (decodeState s.rd.ch x s.rd.buf st 0 j) }
  others : otherChannels s.rd.ch s t
  completed : j = m → t.result = BitVec.ofNat 32 s.rd.n ∧ t.err = .ok

namespace ReadProgress

variable {s t : State} {x : Channel} {st : FState} {m j : Nat}

theorem start (hbusy : s.rd.busy = true) (hk : s.rd.k = 0) (hx : x = s.chan s.rd.ch) (hst : x.frs = some st)
    (hm : 0 < m) : ReadProgress s x st m 0 s where
  engine := by rw [decide_eq_true hm, ← hbusy, ← hk]
  memory := rfl
  channel := by rw [← hx, decodeState, ← hst]
  others _ _ := rfl
  completed h := absurd h hm.ne

/-- The channel of the READ, as the engine of `t` finds it. -/
theorem chan_eq (h : ReadProgress s x st m j t) :
    t.chan t.rd.ch = { x with frs := some (decodeState s.rd.ch x s.rd.buf st 0 j) } := by
  rw [h.engine]
  exact h.channel

theorem stride_eq (h : ReadProgress s x st m j t) : (t.chan t.rd.ch).stride = x.stride := by
  rw [h.chan_eq]
  rfl

theorem rawChunk_eq (h : ReadProgress s x st m j t) :
    rawChunk t.rd.ch (t.chan t.rd.ch) t.rd.buf t.rd.k = rawChunk s.rd.ch x s.rd.buf j := by
  rw [h.chan_eq, h.engine]
  rfl

theorem chunkBase_eq (h : ReadProgress s x st m j t) : chunkBase t = s.rd.addr.toNat + 2 * (j * x.stride) := by
  rw [chunkBase, h.stride_eq, h.engine]

/-- The next chunk is the READ's last exactly where it is chunk `m`. -/
theorem last_iff (h : ReadProgress s x st m j t) (hn : s.rd.n = m * x.stride) (hstride : 0 < x.stride) :
    (t.rd.k + 1) * (t.chan t.rd.ch).stride = t.rd.n ↔ j + 1 = m := by
  rw [h.stride_eq, h.engine]
  show (j + 1) * x.stride = s.rd.n ↔ j + 1 = m
  rw [hn, Nat.mul_left_inj hstride.ne']

/-- The chunk after the first `j` is decoded from the running state they leave, and written after their samples. -/
theorem performed (h : ReadProgress s x st m j t) (hn : s.rd.n = m * x.stride) (hstride : 0 < x.stride) (hj : j < m) :
    ReadProgress s x st m (j + 1) (performChunk t) := by
  obtain ⟨hmem, hchan, hothers, hlast, hmore⟩ := performChunk_spec t
  have hch : t.rd.ch = s.rd.ch := by rw [h.engine]
  have hst : (t.chan t.rd.ch).frs = some (decodeState s.rd.ch x s.rd.buf st 0 j) := by rw [h.chan_eq]
  have hend := h.last_iff hn hstride
  exact
    { engine := by
        by_cases hdone : j + 1 = m
        · rw [(hlast (hend.2 hdone)).1, h.engine, decide_eq_false (Nat.not_lt.2 hdone.ge)]
        · rw [(hmore (mt hend.1 hdone)).1, h.engine, decide_eq_true hj, decide_eq_true (by omega : j + 1 < m)]
      memory := by
        rw [hmem, h.memory, h.chunkBase_eq, chunkPcm_eq hst, h.rawChunk_eq, h.chan_eq, decodeChunks_snoc, Nat.zero_add,
          Memory.writeSamples_append, decodeChunks_length]
        rfl
      channel := by
        rw [← hch, hchan, chunkFilterState_eq hst, h.rawChunk_eq, h.chan_eq, hch, decodeState_snoc, Nat.zero_add]
      others := fun d hd => (hothers d (hch ▸ hd)).trans (h.others d hd)
      completed := fun hdone => by
        obtain ⟨-, hresult, herr⟩ := hlast (hend.2 hdone)
        exact ⟨by rw [hresult, h.engine], herr⟩ }

/-- Host memory admits the chunk after the first `j`, whose samples are among the READ's. -/
theorem chunkStep_eq {writable : Nat → Nat → Bool} (h : ReadProgress s x st m j t) (hn : s.rd.n = m * x.stride)
    (hj : j < m) (hadm : ∀ i, i < s.rd.n → admits writable (s.rd.addr.toNat + 2 * i) = true) :
    chunkStep writable t = performChunk t := by
  have hchunk : j * x.stride + x.stride ≤ s.rd.n := by
    rw [hn, ← Nat.succ_mul]
    exact Nat.mul_le_mul_right _ hj
  refine chunkStep_admitted (by rw [h.engine, decide_eq_true hj]) fun i hi => ?_
  rw [h.stride_eq] at hi
  rw [h.chunkBase_eq, Nat.add_assoc, ← Nat.mul_add]
  exact hadm _ (by omega)

end ReadProgress

/-- Every number of chunks up to `m` leaves what `ReadProgress` says. -/
theorem readProgress_chunkSteps {writable : Nat → Nat → Bool} {s : State} {x : Channel} {st : FState} {m : Nat}
    (hstart : ReadProgress s x st m 0 s) (hstride : 0 < x.stride) (hn : s.rd.n = m * x.stride)
    (hadm : ∀ i, i < s.rd.n → admits writable (s.rd.addr.toNat + 2 * i) = true) {j : Nat} (hj : j ≤ m) :
    ReadProgress s x st m j (chunkSteps writable j s) := by
  induction j with
  | zero => exact hstart
  | succ j ih =>
    have hprev := ih (by omega)
    rw [chunkSteps_succ, hprev.chunkStep_eq hn hj hadm]
    exact hprev.performed hn hstride hj

/-- Settles O27, by induction on the chunks done. -/
theorem readRunsToCompletion : Obligations.ReadRunsToCompletion := by
  intro writable s x st m hbusy hk hx hst hstride hn hm hadm j hj
  obtain ⟨hengine, hmem, hchan, hothers, hdone⟩ :=
    readProgress_chunkSteps (.start hbusy hk hx hst hm) hstride hn hadm hj
  refine ⟨by rw [hengine]; exact decide_eq_true_iff, fun i hi => ?_, decodeChunks_length .., fun a ha => ?_, hchan,
    hothers, hdone⟩
  · rw [hmem]
    exact Memory.read_writeSamples _ _ _ i hi
  · rw [hmem]
    exact Memory.read_writeSamples_outside _ _ _ _ (by rwa [decodeChunks_length])

/-! ## What the decoder depends on (R209) -/

/-- Written bytes that are the same read the same, whatever channel and buffer they are in. -/
theorem rawRead_congr {c d : Chan} {x y : Channel} {b b' : BufIdx} {off off' n : Nat}
    (h : ∀ i, i < n → (x.rawByte? b (off + i)).isSome = true ∧ x.rawByte? b (off + i) = y.rawByte? b' (off' + i)) :
    rawRead c x b off n = rawRead d y b' off' n := by
  refine List.map_congr_left fun i hi => ?_
  obtain ⟨hwritten, heq⟩ := h i (List.mem_range.1 hi)
  obtain ⟨v, hv⟩ := Option.isSome_iff_exists.1 hwritten
  rw [← heq, hv, Option.getD_some, Option.getD_some]

/-- Chunk `i` of `m` chunks of the same written bytes. -/
theorem rawChunk_congr {c d : Chan} {x y : Channel} {b b' : BufIdx} {k k' m : Nat} (hstride : x.stride = y.stride)
    (h : ∀ i, i < m * x.chunkBytes → (x.rawByte? b (k * x.chunkBytes + i)).isSome = true ∧
      x.rawByte? b (k * x.chunkBytes + i) = y.rawByte? b' (k' * y.chunkBytes + i)) {i : Nat} (hi : i < m) :
    rawChunk c x b (k + i) = rawChunk d y b' (k' + i) := by
  have hbytes : y.chunkBytes = x.chunkBytes := by rw [Channel.chunkBytes, Channel.chunkBytes, hstride]
  have hchunk : i * x.chunkBytes + x.chunkBytes ≤ m * x.chunkBytes := by
    rw [← Nat.succ_mul]
    exact Nat.mul_le_mul_right _ hi
  rw [hbytes] at h
  rw [rawChunk, rawChunk, hbytes]
  refine rawRead_congr fun j hj => ?_
  rw [Nat.add_mul, Nat.add_mul, Nat.add_assoc, Nat.add_assoc]
  exact h _ (by omega)

/-- The decoder is a function of the chunks' bytes, the stride, the volume, the parameters and the running state. -/
theorem decode_congr {c d : Chan} {x y : Channel} {b b' : BufIdx} (st : FState) {k k' m : Nat}
    (hstride : x.stride = y.stride) (hfp : x.fp = y.fp) (hvol : x.vol = y.vol)
    (hraw : ∀ i, i < m → rawChunk c x b (k + i) = rawChunk d y b' (k' + i)) :
    decodeChunks c x b st k m = decodeChunks d y b' st k' m ∧
      decodeState c x b st k m = decodeState d y b' st k' m := by
  induction m with
  | zero => exact ⟨rfl, rfl⟩
  | succ m ih =>
    obtain ⟨hpcm, hstate⟩ := ih fun i hi => hraw i (by omega)
    rw [decodeChunks_snoc, decodeChunks_snoc, decodeState_snoc, decodeState_snoc, hpcm, hstate, hraw m (by omega),
      hstride, hfp, hvol]
    exact ⟨rfl, rfl⟩

/-- Settles O28: the chunks have the same bytes, and the engine's next one is the first of them. -/
theorem equalInputsDecodeEqually : Obligations.EqualInputsDecodeEqually := by
  intro s t x y st m hx hy hstride hfp hvol hxst hyst hbytes
  subst hx hy
  refine ⟨fun hm => ?_, decode_congr st hstride hfp hvol fun _ => rawChunk_congr hstride hbytes⟩
  have hfirst : rawChunk s.rd.ch (s.chan s.rd.ch) s.rd.buf s.rd.k = rawChunk t.rd.ch (t.chan t.rd.ch) t.rd.buf t.rd.k :=
    rawChunk_congr hstride hbytes hm
  rw [chunkPcm_eq hxst, chunkPcm_eq hyst, chunkFilterState_eq hxst, chunkFilterState_eq hyst, hfirst, hstride, hfp, hvol]
  exact ⟨rfl, rfl⟩

/-! ## The bytes of a reachable READ (R60 (c), R203) -/

/-- The raw bytes of the chunk the engine does next are in its buffer: the chunk's samples are among the READ's, which
are at most the buffer's. -/
theorem BlockInv.chunkBytes_le {s : State} (h : BlockInv s) (hbusy : s.rd.busy = true) :
    s.rd.k * (s.chan s.rd.ch).chunkBytes + (s.chan s.rd.ch).chunkBytes ≤ (s.chan s.rd.ch).rawSize := by
  have hend := h.reading.chunk_end_le hbusy
  have hcapped := h.reading.capped hbusy
  have hsamples : (s.rd.k + 1) * (s.chan s.rd.ch).stride ≤ (s.chan s.rd.ch).cfg.bufsz.toNat := by
    rw [Nat.succ_mul]
    unfold chunkBase at hend
    omega
  rw [(h.channels s.rd.ch).rawSizeLatched (h.reading.initialised hbusy), rawSizeOf, ← Nat.succ_mul, Channel.chunkBytes,
    ← Nat.mul_assoc]
  exact Nat.mul_le_mul_right _ hsamples

/-- Settles O59: the buffer of a READ in progress is wholly written. -/
theorem reachableChunksReadWrittenBytes : Obligations.ReachableChunksReadWrittenBytes := by
  intro s h hbusy i hi
  have hinside := h.blockInv.chunkBytes_le hbusy
  exact h.blockInv.reading.bufferFilled hbusy _ (by omega)

end Sys2Proof.Machine
end

section
/-!
PROOFS. Ready notification (43_notification.md): what an accepted ACK answers, the write-1-to-clear of IRQ_STAT, and
the READY_IRQ output as the OR of the READY_PEND bits.
-/

namespace Sys2Proof.Machine

/-! ## ACK (R230) -/

theorem ackChannel_held {c : Chan} {s : State} (h : (s.chan c).lstate ≠ .uninit) :
    ackChannel c s = report .ok (s.chan c).pendCount (s.modChan c (fun x => { x with pendCount := 0#32 })) :=
  whenInit_held _ h

/-- Settles O29. -/
theorem ackTranscribesAndClears : Obligations.AckTranscribesAndClears := by
  intro ch c s ha hc
  refine ⟨fun hu => exec_of_raise (i := .ack ch) ha hc (ackChannel_uninit hu), fun hheld => ?_⟩
  obtain ⟨hexec, hothers, hframe⟩ :=
    exec_of_rule (i := .ack ch) (s := s) ha hc (ackChannel_held (s := { s with lost := false }) hheld)
  exact ⟨_, hexec, rfl, rfl, rfl, State.chan_eq_of_chans_eq rfl, rfl, rfl, rfl, ⟨rfl, rfl⟩, hothers, hframe⟩

/-! ## The write of IRQ_STAT (R231) -/

theorem clearIrqStat_onlyChannels (v : Word) (s : State) : onlyChannels s (clearIrqStat v s) := rfl

/-- Settles O30: the write is the register's store, which asks nothing of BUSY. -/
theorem irqStatIsWriteOneToClear : Obligations.IrqStatIsWriteOneToClear := by
  intro s v rest hagenda hf
  exact ⟨_, step_write_reg (r := .irqStat) hf (by decide) hagenda, clearIrqStat_onlyChannels v _,
    clearIrqStat_chan v { s with agenda := rest }⟩

/-! ## READY_IRQ (R232, R311) -/

theorem readyIrq_eq_true_iff (s : State) : readyIrq s = true ↔ ∃ c, (s.chan c).readyPend = true := by
  rw [readyIrq, Bool.or_eq_true, Bool.or_eq_true]
  constructor
  · rintro ((h0 | h1) | h2)
    · exact ⟨0, h0⟩
    · exact ⟨1, h1⟩
    · exact ⟨2, h2⟩
  · rintro ⟨c, h⟩
    rcases chan_cases c with rfl | rfl | rfl
    · exact .inl (.inl h)
    · exact .inl (.inr h)
    · exact .inr h

/-- A serviced completion sets its own channel's READY_PEND where the ready handler is set, and no other. -/
theorem serviceCompletion_readyPend (c d : Chan) (s : State) :
    ((serviceCompletion c s).chan d).readyPend =
      ((s.chan d).readyPend || (decide (d = c) && (s.chan c).readyEn)) := by
  by_cases hd : d = c
  · subst hd; simp [serviceCompletion_chan]
  · simp [serviceCompletion, hd]

theorem readyIrq_serviceCompletion (c : Chan) (s : State) :
    readyIrq (serviceCompletion c s) = (readyIrq s || (s.chan c).readyEn) := by
  rw [Bool.eq_iff_iff, Bool.or_eq_true]
  calc readyIrq (serviceCompletion c s) = true
    _ ↔ ∃ d, (s.chan d).readyPend = true ∨ (d = c ∧ (s.chan c).readyEn = true) := by
      simp only [readyIrq_eq_true_iff, serviceCompletion_readyPend, Bool.or_eq_true, Bool.and_eq_true,
        decide_eq_true_iff]
    _ ↔ readyIrq s = true ∨ (s.chan c).readyEn = true := by
      rw [exists_or, exists_eq_left, readyIrq_eq_true_iff]

theorem readyIrq_clearIrqStat_iff (v : Word) (s : State) :
    readyIrq (clearIrqStat v s) = true ↔ ∃ c : Chan, (s.chan c).readyPend = true ∧ v.getLsbD c.val = false := by
  simp only [readyIrq_eq_true_iff, clearIrqStat_chan, Channel.clearIrqBits_readyPend, Bool.and_eq_true,
    Bool.not_eq_true']

/-- Settles O31: each clause by the READY_PEND bits that the move leaves. -/
theorem readyIrqFollowsReadyPend : Obligations.ReadyIrqFollowsReadyPend := fun c s v =>
  ⟨readyIrq_eq_true_iff s, readyIrq_serviceCompletion c s, readyIrq_clearIrqStat_iff v s⟩

end Sys2Proof.Machine
end

section
/-!
PROOFS. Capture and completion (45_capture_completion.md): the DMA byte step and a whole transfer, the completion
handler's choice of a channel and what it leaves of it, and several completions one after another.
-/

namespace Sys2Proof.Machine

/-! ## A change of one channel -/

theorem otherChannels_refl (c : Chan) (s : State) : otherChannels c s s := fun _ _ => rfl

theorem otherChannels_trans {c : Chan} {s t u : State} (hst : otherChannels c s t) (htu : otherChannels c t u) :
    otherChannels c s u :=
  fun d hd => (htu d hd).trans (hst d hd)

theorem onlyChannels_refl (s : State) : onlyChannels s s := rfl

theorem onlyChannels_trans {s t u : State} (hst : onlyChannels s t) (htu : onlyChannels t u) : onlyChannels s u := by
  unfold onlyChannels at hst htu ⊢
  calc ({ u with chans := s.chans } : State)
    _ = { t with chans := s.chans } := congrArg (fun v : State => { v with chans := s.chans }) htu
    _ = s := hst

theorem onlyChannels_setChan (c : Chan) (s : State) (x : Channel) : onlyChannels s (s.setChan c x) := rfl

/-! ## The DMA byte step (R250) -/

theorem dmaStep_frame (c : Chan) (v : Byte) (s : State) :
    otherChannels c s (dmaStep c v s) ∧ onlyChannels s (dmaStep c v s) := by
  rcases dmaStep_cases c v s with ⟨-, e⟩ | ⟨-, e⟩
  · rw [e]; exact ⟨otherChannels_refl c s, onlyChannels_refl s⟩
  · rw [e]; exact ⟨otherChannels_setChan c s _, onlyChannels_setChan c s _⟩

theorem dmaStep_disabled {c : Chan} {s : State} (v : Byte) (h : (s.chan c).capturing = false) : dmaStep c v s = s := by
  simp [dmaStep, h]

theorem dmaStep_chan {c : Chan} {s : State} (v : Byte) (h : (s.chan c).capturing = true) :
    (dmaStep c v s).chan c = (s.chan c).dmaByte v := by
  simp [dmaStep, h]

theorem Channel.capturing_eq_false_iff (x : Channel) :
    x.capturing = false ↔ x.dmaArmed = false ∨ x.capEn = false :=
  Bool.and_eq_false_iff

theorem Channel.capturing_of {x : Channel} (harmed : x.dmaArmed = true) (hcap : x.capEn = true) :
    x.capturing = true :=
  Bool.and_eq_true_iff.2 ⟨harmed, hcap⟩

/-- A byte of a transfer writes the raw buffers and the transfer's own three fields. -/
theorem Channel.dmaByte_keeps (x : Channel) (v : Byte) :
    { x.dmaByte v with raw := x.raw, dmaProg := x.dmaProg, dmaArmed := x.dmaArmed, dmaPend := x.dmaPend } = x := by
  unfold Channel.dmaByte
  split <;> rfl

section Armed

variable {x : Channel}

/-- R60 (a). -/
theorem ChannelInv.not_pending_of_armed (h : ChannelInv x) (harmed : x.dmaArmed = true) : x.dmaPend = false := by
  by_contra hpend
  exact absurd (harmed.symm.trans (h.pendingNotArmed (by simpa using hpend))) (by decide)

/-- The target buffer of a transfer in progress exists (R47). -/
theorem ChannelInv.target_isSome (h : ChannelInv x) (harmed : x.dmaArmed = true) : (x.raw[x.w]).isSome = true := by
  obtain ⟨-, -, hbufs⟩ := h.resourcesHeld (ChannelInv.held_of_active (h.active_of_armed harmed))
  exact hbufs x.w

theorem ChannelInv.dmaByte_dmaPend (h : ChannelInv x) (harmed : x.dmaArmed = true) (v : Byte) :
    (x.dmaByte v).dmaPend = decide (x.dmaProg + 1 = x.rawSize) := by
  rw [Channel.dmaByte_dmaPend, h.not_pending_of_armed harmed, Bool.false_or]

theorem Channel.dmaByte_dmaArmed_of_armed (harmed : x.dmaArmed = true) (v : Byte) :
    (x.dmaByte v).dmaArmed = decide (x.dmaProg + 1 ≠ x.rawSize) := by
  rw [Channel.dmaByte_dmaArmed, harmed, Bool.true_and, decide_not]

end Armed

/-- Settles O32: the move of an agent that is not capturing, and of one that is. -/
theorem dmaStoresOneByte : Obligations.DmaStoresOneByte := by
  rintro c v s _ _ _ rfl rfl rfl h
  refine ⟨fun hoff => dmaStep_disabled v ((Channel.capturing_eq_false_iff _).2 hoff), fun harmed hcap => ?_⟩
  obtain ⟨hroom, -⟩ := h.armedProgress harmed
  obtain ⟨hothers, honly⟩ := dmaStep_frame c v s
  rw [dmaStep_chan v (Channel.capturing_of harmed hcap)]
  exact ⟨hroom, Channel.rawByte?_dmaByte v (h.target_isSome harmed), Channel.dmaByte_dmaProg _ v,
    Channel.dmaByte_dmaArmed_of_armed harmed v, h.dmaByte_dmaPend harmed v, Channel.dmaByte_keeps _ v, hothers, honly⟩

/-! ## A whole transfer (R250) -/

theorem dmaSteps_snoc (c : Chan) (vs : List Byte) (v : Byte) (s : State) :
    dmaSteps c (vs ++ [v]) s = dmaStep c v (dmaSteps c vs s) := by
  induction vs generalizing s with
  | nil => rfl
  | cons u vs ih => exact ih (dmaStep c u s)

theorem dmaSteps_frame (c : Chan) (vs : List Byte) (s : State) :
    otherChannels c s (dmaSteps c vs s) ∧ onlyChannels s (dmaSteps c vs s) := by
  induction vs generalizing s with
  | nil => exact ⟨otherChannels_refl c s, onlyChannels_refl s⟩
  | cons v vs ih =>
    obtain ⟨hothers, honly⟩ := dmaStep_frame c v s
    obtain ⟨hothers', honly'⟩ := ih (dmaStep c v s)
    exact ⟨otherChannels_trans hothers hothers', onlyChannels_trans honly honly'⟩

/-- `y` is what the bytes `vs`, delivered from the beginning of a transfer on, leave of the channel `x`. -/
structure TransferProgress (x : Channel) (vs : List Byte) (y : Channel) : Prop where
  inv : ChannelInv y
  target : y.w = x.w
  size : y.rawSize = x.rawSize
  capturing : y.capEn = true
  progress : y.dmaProg = vs.length
  armed : y.dmaArmed = decide (vs.length ≠ x.rawSize)
  pending : y.dmaPend = decide (vs.length = x.rawSize)
  filled : ∀ i, i < vs.length → y.rawByte? x.w i = vs[i]?

namespace TransferProgress

variable {x y : Channel} {vs : List Byte}

theorem start (h : ChannelInv x) (harmed : x.dmaArmed = true) (hcap : x.capEn = true) (hprog : x.dmaProg = 0) :
    TransferProgress x [] x := by
  obtain ⟨hroom, -⟩ := h.armedProgress harmed
  have hne : 0 ≠ x.rawSize := by omega
  exact
    { inv := h
      target := rfl
      size := rfl
      capturing := hcap
      progress := hprog
      armed := harmed.trans (decide_eq_true hne).symm
      pending := (h.not_pending_of_armed harmed).trans (decide_eq_false hne).symm
      filled := fun _ hi => absurd hi (Nat.not_lt_zero _) }

/-- While bytes are missing, the next one goes behind those delivered. -/
theorem byte (h : TransferProgress x vs y) (hmore : vs.length ≠ x.rawSize) (v : Byte) :
    TransferProgress x (vs ++ [v]) (y.dmaByte v) := by
  have harmed : y.dmaArmed = true := h.armed.trans (decide_eq_true hmore)
  have hlen : (vs ++ [v]).length = y.dmaProg + 1 := by simp [h.progress]
  exact
    { inv := h.inv.captured (Channel.capturing_of harmed h.capturing) v
      target := (y.dmaByte_w v).trans h.target
      size := (y.dmaByte_rawSize v).trans h.size
      capturing := (y.dmaByte_capEn v).trans h.capturing
      progress := (y.dmaByte_dmaProg v).trans hlen.symm
      armed := by rw [Channel.dmaByte_dmaArmed_of_armed harmed, hlen, h.size]
      pending := by rw [h.inv.dmaByte_dmaPend harmed, hlen, h.size]
      filled := fun i hi => by
        rw [Channel.rawByte?_dmaByte v (h.inv.target_isSome harmed), h.target, h.progress]
        by_cases hlast : i = vs.length
        · simp [hlast]
        · have hold : i < vs.length := by rw [hlen, h.progress] at hi; omega
          rw [if_neg (fun hnew => hlast hnew.2), h.filled i hold, List.getElem?_append_left hold] }

end TransferProgress

/-- Any number of bytes up to the size of the buffer leaves what `TransferProgress` says. -/
theorem transferProgress_dmaSteps {c : Chan} {s : State} (hstart : TransferProgress (s.chan c) [] (s.chan c))
    (vs : List Byte) (hroom : vs.length ≤ (s.chan c).rawSize) :
    TransferProgress (s.chan c) vs ((dmaSteps c vs s).chan c) := by
  induction vs using List.reverseRecOn with
  | nil => exact hstart
  | append_singleton vs v ih =>
    rw [List.length_append, List.length_singleton] at hroom
    have hprev := ih (by omega)
    have hmore : vs.length ≠ (s.chan c).rawSize := by omega
    have harmed := hprev.armed.trans (decide_eq_true hmore)
    rw [dmaSteps_snoc, dmaStep_chan v (Channel.capturing_of harmed hprev.capturing)]
    exact hprev.byte hmore v

/-- Settles O33, by induction on the bytes delivered. -/
theorem transferFillsTheBuffer : Obligations.TransferFillsTheBuffer := by
  rintro c vs s _ rfl h harmed hcap hprog hroom
  have hdone := transferProgress_dmaSteps (.start h harmed hcap hprog) vs hroom
  refine ⟨fun i hi => ?_, hdone.progress, ?_, ?_, dmaSteps_frame c vs s⟩
  · rw [hdone.filled i hi, List.getElem?_eq_getElem hi]
  · rw [hdone.pending, decide_eq_true_iff]
  · rw [hdone.armed, decide_eq_true_iff, Nat.lt_iff_le_and_ne]
    exact ⟨fun hne => ⟨hroom, hne⟩, fun hlt => hlt.2⟩

/-! ## The channel the handler services (R251 (a), R254) -/

theorem Channel.completionDue_iff (x : Channel) : x.completionDue = true ↔ x.dmaPend = true ∧ x.dmaIrqEn = true :=
  Bool.and_eq_true_iff

theorem dueChannel_eq_some_of {s : State} {c : Chan} (hdue : (s.chan c).completionDue = true)
    (hlowest : ∀ d, d < c → (s.chan d).completionDue = false) : dueChannel s = some c := by
  cases hd : dueChannel s with
  | none => exact absurd (hdue.symm.trans (dueChannel_none.1 hd c)) (by decide)
  | some d =>
    obtain ⟨hdue', hlowest'⟩ := dueChannel_some hd
    rcases lt_trichotomy d c with hlt | rfl | hlt
    · exact absurd (hdue'.symm.trans (hlowest d hlt)) (by decide)
    · rfl
    · exact absurd (hdue.symm.trans (hlowest' c hlt)) (by decide)

theorem handlerStep_lowest {s : State} {c : Chan} (hline : s.lineEn = true)
    (hdue : (s.chan c).completionDue = true) (hlowest : ∀ d, d < c → (s.chan d).completionDue = false) :
    handlerStep s = serviceCompletion c s := by
  simp [handlerStep, hline, dueChannel_eq_some_of hdue hlowest]

theorem handlerStep_disabled {s : State} (h : s.lineEn = false ∨ ∀ d, (s.chan d).completionDue = false) :
    handlerStep s = s := by
  rcases h with hline | hnone
  · simp [handlerStep, hline]
  · simp [handlerStep, dueChannel_none.2 hnone]

/-! ## A serviced completion (R251 to R253) -/

/-- The exchange of buffers, with Arm's two ends as one (R147). -/
theorem Channel.swap_eq (x : Channel) : x.swap =
    { x with dmaPend := decide (x.rawSize = 0), r := x.w, w := x.w + 1, dmaProg := 0,
             dmaArmed := decide (x.rawSize ≠ 0) } := by
  by_cases hempty : x.rawSize = 0
  · simp [Channel.swap, Channel.arm, hempty]
  · simp [Channel.swap, Channel.arm, hempty]

theorem serviceCompletion_others (c : Chan) (s : State) : otherChannels c s (serviceCompletion c s) :=
  otherChannels_setChan c s _

theorem serviceCompletion_onlyChannels (c : Chan) (s : State) : onlyChannels s (serviceCompletion c s) :=
  onlyChannels_setChan c s _

section Serviced

variable (c : Chan) (s : State)

theorem serviceCompletion_w : ((serviceCompletion c s).chan c).w = (s.chan c).w + 1 := by
  rw [serviceCompletion_chan]
  exact Channel.swap_w _

theorem serviceCompletion_r : ((serviceCompletion c s).chan c).r = (s.chan c).w := by
  rw [serviceCompletion_chan]
  exact Channel.swap_r _

theorem serviceCompletion_pendCount :
    ((serviceCompletion c s).chan c).pendCount = (s.chan c).pendCount + 1#32 := by
  rw [serviceCompletion_chan]

theorem serviceCompletion_dmaPend :
    ((serviceCompletion c s).chan c).dmaPend = decide ((s.chan c).rawSize = 0) := by
  rw [serviceCompletion_chan]
  exact Channel.swap_dmaPend _

theorem serviceCompletion_dmaArmed :
    ((serviceCompletion c s).chan c).dmaArmed = !decide ((s.chan c).rawSize = 0) := by
  rw [serviceCompletion_chan]
  exact Channel.swap_dmaArmed _

theorem serviceCompletion_ovr : ((serviceCompletion c s).chan c).ovr = ((s.chan c).ovr || overrun c s) := by
  rw [serviceCompletion_chan]

/-- A completion publishes a buffer: of the two, the one the DMA is not re-armed into. -/
theorem serviceCompletion_published : ((serviceCompletion c s).chan c).r ≠ ((serviceCompletion c s).chan c).w := by
  rw [serviceCompletion_r, serviceCompletion_w]
  generalize (s.chan c).w = w
  revert w
  decide

end Serviced

/-- A published buffer that is not consumed is lost at the next completion (R253). -/
theorem overrun_of_published {c : Chan} {s : State} (h : (s.chan c).r ≠ (s.chan c).w) : overrun c s = true := by
  simp [overrun, h]

/-- Settles O34. -/
theorem handlerServicesTheLowestChannel : Obligations.HandlerServicesTheLowestChannel := by
  rintro s _ rfl
  simp only [← Channel.completionDue_iff, Bool.not_eq_true]
  refine ⟨handlerStep_disabled, ?_⟩
  rintro c _ rfl hline hpend hirq hlowest
  rw [handlerStep_lowest hline ((Channel.completionDue_iff _).2 ⟨hpend, hirq⟩) hlowest]
  refine ⟨?_, serviceCompletion_others c s, serviceCompletion_onlyChannels c s⟩
  rw [serviceCompletion_chan, Channel.swap_eq, overrun, Bool.or_assoc]

/-- Settles O35: channel `c` is serviced first, and, its buffer not being empty, is then no longer due. -/
theorem simultaneousCompletionsAreAscending : Obligations.SimultaneousCompletionsAreAscending := by
  intro s c d hline hlt hdueC hdueD hsize hnone
  have hfirst : handlerStep s = serviceCompletion c s :=
    handlerStep_lowest hline hdueC fun e he => hnone e (he.trans hlt) he.ne
  have hothers := serviceCompletion_others c s
  have hdue : ((serviceCompletion c s).chan d).completionDue = true := by rwa [hothers d hlt.ne']
  have hbelow : ∀ e, e < d → ((serviceCompletion c s).chan e).completionDue = false := by
    intro e he
    by_cases hc : e = c
    · subst hc
      simp [Channel.completionDue, serviceCompletion_dmaPend, hsize]
    · rw [hothers e hc]
      exact hnone e he hc
  rw [hfirst]
  exact ⟨hdue, handlerStep_lowest hline hdue hbelow⟩

/-! ## Completions one after another (R234, R253, R256) -/

theorem completions_succ (c : Chan) (k : Nat) (s : State) :
    completions c (k + 1) s = serviceCompletion c (completions c k s) := by
  induction k generalizing s with
  | zero => rfl
  | succ k ih => exact ih (serviceCompletion c s)

/-- Each completion advances the write index, mod 2. -/
theorem completions_w (c : Chan) (k : Nat) (s : State) :
    ((completions c k s).chan c).w.val = ((s.chan c).w.val + k) % 2 := by
  induction k with
  | zero => exact (Nat.mod_eq_of_lt (s.chan c).w.isLt).symm
  | succ k ih =>
    rw [completions_succ, serviceCompletion_w, Fin.val_add, ih]
    show (((s.chan c).w.val + k) % 2 + 1) % 2 = ((s.chan c).w.val + (k + 1)) % 2
    omega

/-- Each completion is counted, mod 2^32 (R252). -/
theorem completions_pendCount (c : Chan) (k : Nat) (s : State) :
    ((completions c k s).chan c).pendCount = (s.chan c).pendCount + BitVec.ofNat 32 k := by
  induction k with
  | zero => exact (BitVec.add_zero _).symm
  | succ k ih => rw [completions_succ, serviceCompletion_pendCount, ih, BitVec.add_assoc, BitVec.ofNat_add]

/-- An accepted START of an IDLE channel (R146). -/
theorem exec_start_idle {ch : BitVec 2} {c : Chan} {s : State} (ha : s.accepting) (hc : chanOf ch = some c)
    (hidle : (s.chan c).lstate = .idle) :
    ∃ t, exec (.start ch) s = .next t ∧ t.chan c = startedChannel (s.chan c) := by
  obtain ⟨hexec, -⟩ :=
    exec_of_rule (i := .start ch) (s := s) ha hc (startChannel_idle (s := { s with lost := false }) hidle)
  exact ⟨_, hexec, State.chan_modChan_self _ c _⟩

/-- Settles O36, by induction on the completions: START leaves the write index and the counter at 0. -/
theorem writeIndexAlternatesFromZero : Obligations.WriteIndexAlternatesFromZero := by
  intro ch c s ha hc hidle
  obtain ⟨t, hexec, hchan⟩ := exec_start_idle ha hc hidle
  have hw : ∀ k, ((completions c k t).chan c).w.val = k % 2 := fun k => by
    rw [completions_w, hchan, startedChannel_w, Fin.val_zero, Nat.zero_add]
  refine ⟨t, hexec, fun k => ⟨hw k, ?_, ?_⟩⟩
  · rw [completions_succ, serviceCompletion_r, hw]
  · rw [completions_pendCount, hchan, startedChannel_pendCount, BitVec.zero_add]

/-- Settles O37: the first completion publishes a buffer, which the second one loses. -/
theorem twoCompletionsWithoutReadOverrun : Obligations.TwoCompletionsWithoutReadOverrun := by
  intro c s
  have hpublished : ((completions c 1 s).chan c).r ≠ ((completions c 1 s).chan c).w := serviceCompletion_published c s
  refine ⟨?_, completions_pendCount c 2 s, hpublished⟩
  rw [completions_succ, serviceCompletion_ovr, overrun_of_published hpublished, Bool.or_true]

/-! ## An empty buffer (R147, R259) -/

/-- Settles O38. -/
theorem emptyBufferCompletesAtOnce : Obligations.EmptyBufferCompletesAtOnce := by
  intro ch c s hc hempty
  refine ⟨fun ha hidle => ?_, ?_, ?_⟩
  · obtain ⟨t, hexec, hchan⟩ := exec_start_idle ha hc hidle
    refine ⟨t, hexec, ?_⟩
    rw [hchan, Channel.completionDue]
    simp [hempty]
  · rw [serviceCompletion_dmaPend, decide_eq_true hempty]
  · rw [serviceCompletion_dmaArmed, decide_eq_true hempty, Bool.not_true]

end Sys2Proof.Machine
end

section
/-!
PROOFS. Exceptions (60_exceptions.md): a CMD write is dropped or accepted, what an accepted command leaves unchanged,
and where a step stops.
-/

namespace Sys2Proof.Machine

/-! ## The fault outcome (R306) -/

theorem runEvent_faulted {s : State} {e : Event} (hf : s.fault = true) (he : e ≠ .reset) :
    runEvent e s = .fault .busFault := by
  cases e with
  | reset => exact absurd rfl he
  | _ => exact if_pos hf

/-- Settles O47. -/
theorem faultStopsEveryAgent : Obligations.FaultStopsEveryAgent := by
  intro s e rest hf hagenda he
  rw [step_of_agenda hagenda]
  exact runEvent_faulted hf he

/-! ## The moves before FAULT (R320) -/

section Unfaulted

variable {s : State} (hf : s.fault = false)

include hf

theorem runEvent_write (off size : Nat) (v : Word) : runEvent (.write off size v) s = hostWrite off size v s :=
  if_neg (Bool.eq_false_iff.1 hf)

theorem runEvent_read (off size : Nat) : runEvent (.read off size) s = hostRead off size s :=
  if_neg (Bool.eq_false_iff.1 hf)

theorem runEvent_dma (c : Chan) (v : Byte) : runEvent (.dma c v) s = .next (dmaStep c v s) :=
  if_neg (Bool.eq_false_iff.1 hf)

theorem runEvent_irq : runEvent .irq s = .next (handlerStep s) :=
  if_neg (Bool.eq_false_iff.1 hf)

theorem runEvent_chunk : runEvent .chunk s = .next (chunkStep Config.hostWritable s) :=
  if_neg (Bool.eq_false_iff.1 hf)

theorem runEvent_memStore (a : Addr) (v : Byte) : runEvent (.memStore a v) s = .next (hostStore a v s) :=
  if_neg (Bool.eq_false_iff.1 hf)

theorem runEvent_memLoad (a : Addr) : runEvent (.memLoad a) s = .next (hostLoad a s) :=
  if_neg (Bool.eq_false_iff.1 hf)

end Unfaulted

/-- Settles O6, by the rule of each move. -/
theorem stepRunsTheAgentsMove : Obligations.StepRunsTheAgentsMove := by
  intro s e rest hagenda hf
  have hf' : ({ s with agenda := rest } : State).fault = false := hf
  rw [step_of_agenda hagenda]
  refine ⟨?dma, ?irq, ?chunk⟩
  case dma =>
    rintro c v rfl
    exact runEvent_dma hf' c v
  case irq =>
    rintro rfl
    exact runEvent_irq hf'
  case chunk =>
    rintro rfl
    exact runEvent_chunk hf'

/-! ## The write of CMD (R302) -/

/-- Whatever the word, a CMD write is one acceptance. -/
theorem issue_eq_accept (w : Word) : ∃ body, ∀ s, issue w s = accept body s := by
  cases hdec : decode w with
  | instr i => exact ⟨_, fun s => (issue_instr hdec s).trans (exec_eq_command i s)⟩
  | illegal e => exact ⟨_, issue_illegal hdec⟩

theorem issue_faulted {s : State} (w : Word) (hf : s.fault = true) : issue w s = .fault .busFault := by
  obtain ⟨body, hbody⟩ := issue_eq_accept w
  rw [hbody, accept_faulted body hf]

theorem issue_busy {s : State} (w : Word) (hf : s.fault = false) (hbusy : s.rd.busy = true) :
    issue w s = .next { s with lost := true } := by
  obtain ⟨body, hbody⟩ := issue_eq_accept w
  rw [hbody, accept_busy body hf hbusy]

theorem issue_unfaulted {s : State} (w : Word) (hf : s.fault = false) : ∃ t, issue w s = .next t := by
  obtain ⟨body, hbody⟩ := issue_eq_accept w
  cases hbusy : s.rd.busy with
  | true => exact ⟨_, issue_busy w hf hbusy⟩
  | false => exact ⟨_, (hbody s).trans (accept_accepting body ⟨hf, hbusy⟩)⟩

/-- A CMD write is `issue` after FAULT too: both stop the machine in the same way. -/
theorem runEvent_write_cmd (w : Word) (s : State) : runEvent (.write Reg.cmd.offset 4 w) s = issue w s := by
  cases hf : s.fault with
  | true =>
    rw [issue_faulted w hf]
    exact runEvent_faulted hf nofun
  | false => rw [runEvent_write hf, hostWrite, regAt_offset]

theorem step_of_cmd {s : State} {w : Word} {rest : List Event} (h : s.agenda = .write 0x00 4 w :: rest) :
    step s = issue w { s with agenda := rest } :=
  (step_of_agenda h).trans (runEvent_write_cmd w _)

/-- A queued command is the next move, and taking it off the list gives the state back. -/
theorem step_queueCommand (w : Word) (s : State) : step (queueCommand w s) = issue w s :=
  step_of_cmd (s := queueCommand w s) (rest := s.agenda) rfl

theorem withFetchWord_toNat (s : State) (w : Word) : s.withFetchWord 32 w.toNat = queueCommand w s := by
  rw [State.withFetchWord, Nat.mod_eq_of_lt w.isLt, BitVec.ofNat_toNat, BitVec.setWidth_eq]

/-- Settles O5: with the move listed or queued, the step is `issue`, and `issue` is the decoded command. -/
theorem stepRunsTheDecodedCommand : Obligations.StepRunsTheDecodedCommand := by
  intro s w i hdec
  refine ⟨fun rest hagenda => ?_, ?_⟩
  · rw [step_of_cmd hagenda, issue_instr hdec]
  · rw [withFetchWord_toNat, step_queueCommand, issue_instr hdec]

/-- Settles O8: every command is one acceptance. -/
theorem everyCommandIsDroppedWhileBusy : Obligations.EveryCommandIsDroppedWhileBusy := by
  intro i s hf hbusy
  rw [exec_eq_command, command, accept_busy _ hf hbusy]

/-! ## What a command can have done -/

/-- Everything a command that answers a next state can have done. -/
theorem exec_next {i : Instr} {s t : State} (h : exec i s = .next t) :
    (s.fault = false ∧ s.rd.busy = true ∧ t = { s with lost := true }) ∨
      (s.accepting ∧ i.ch = 3#2 ∧ t = reportOnly .invalidChannel s) ∨
      (s.accepting ∧ ∃ c, chanOf i.ch = some c ∧ CommandEffect { s with lost := false } c i t) := by
  rw [exec_eq_command] at h
  rcases command_next h with hdropped | hinvalid | ⟨ha, c, hc, rfl⟩
  · exact .inl hdropped
  · exact .inr (.inl hinvalid)
  · exact .inr (.inr ⟨ha, c, hc, .of_ruleOf i⟩)

section Effect

variable {s t : State} {c : Chan} {i : Instr}

theorem CommandEffect.lost (h : CommandEffect s c i t) : t.lost = s.lost := by
  cases h <;> rfl

/-- The only command that sets BUSY is READ (R202). -/
theorem CommandEffect.busy (h : CommandEffect s c i t) (hbusy : t.rd.busy = true) :
    s.rd.busy = true ∨ ∃ ch, i = .read ch := by
  cases h with
  | consumed ch | readBegun ch => exact .inr ⟨ch, rfl⟩
  | _ => exact .inl hbusy

/-- An accepted command clears LOST, and only READ lasts beyond its acceptance (R302). -/
theorem exec_accepted (ha : s.accepting) (h : exec i s = .next t) :
    t.lost = false ∧ (t.rd.busy = true → ∃ ch, i = .read ch) := by
  rcases exec_next h with ⟨-, hbusy, -⟩ | ⟨-, -, rfl⟩ | ⟨-, c, -, heff⟩
  · exact absurd hbusy ha.not_busy
  · exact ⟨rfl, fun hbusy => absurd hbusy ha.not_busy⟩
  · exact ⟨heff.lost, fun hbusy => (heff.busy hbusy).resolve_left ha.not_busy⟩

end Effect

/-- Settles O7: the first two clauses are acceptance's own; the third is by what the word decodes to. -/
theorem commandIsDroppedOrAccepted : Obligations.CommandIsDroppedOrAccepted := by
  intro s w rest hagenda
  rw [step_of_cmd hagenda]
  refine ⟨fun hf => issue_faulted w hf, fun hf hbusy => issue_busy w hf hbusy, fun hf hidle => ?accepted⟩
  case accepted =>
    have ha : ({ s with agenda := rest } : State).accepting := ⟨hf, hidle⟩
    obtain ⟨t, ht⟩ := issue_unfaulted w ha.1
    refine ⟨t, ht, ?_⟩
    cases hdec : decode w with
    | instr i =>
      rw [issue_instr hdec] at ht
      obtain ⟨hlost, hread⟩ := exec_accepted ha ht
      refine ⟨hlost, fun j hj => Decoded.instr.inj hj ▸ ht, nofun, fun hbusy => ?_⟩
      obtain ⟨ch, rfl⟩ := hread hbusy
      exact ⟨ch, rfl⟩
    | illegal e =>
      rw [issue_illegal hdec, accept_accepting _ ha] at ht
      obtain rfl := Host.Outcome.next.inj ht
      exact ⟨rfl, nofun, fun _ _ => rfl, fun hbusy => absurd hbusy ha.not_busy⟩

/-! ## The channels a command leaves alone (R321) -/

/-- A command writes the channel its CH field names and no other, and no staging register. -/
theorem exec_untouched {i : Instr} {s t : State} {x : Chan} (h : exec i s = .next t) (hx : chanOf i.ch ≠ some x) :
    t.chan x = s.chan x ∧ t.stage x = s.stage x := by
  rcases exec_next h with ⟨-, -, rfl⟩ | ⟨-, -, rfl⟩ | ⟨-, c, hc, heff⟩
  · exact ⟨rfl, rfl⟩
  · exact ⟨rfl, rfl⟩
  · have hne : x ≠ c := fun e => hx (e ▸ hc)
    obtain ⟨-, -, -, hstaging, -⟩ := heff.frame
    exact ⟨heff.others x hne, State.stage_congr hstaging x⟩

/-- The line is bit 9 of CH_STAT and no other; the rest is the channel's own (R40). -/
theorem chStatWord_getLsbD_congr {s t : State} {c : Chan} (h : t.chan c = s.chan c) {b : Nat} (hb : b ≠ 9) :
    (chStatWord t c).getLsbD b = (chStatWord s c).getLsbD b := by
  simp only [chStatWord, h, BitVec.getLsbD_append]
  repeat refine ite_congr rfl (fun _ => rfl) fun _ => ?_
  rw [if_neg (by omega), if_neg (by omega)]

/-- Settles O48: an untouched channel's CH_STAT can differ in the line alone. -/
theorem commandsTouchOneChannel : Obligations.CommandsTouchOneChannel := by
  intro i s t x h hx
  obtain ⟨hchan, hstage⟩ := exec_untouched h hx
  exact ⟨hchan, hstage, fun _ => chStatWord_getLsbD_congr hchan⟩

/-! ## Where a step stops (R85, R306) -/

theorem regAt_outside {off : Nat} (size : Nat) (h : 0x80 ≤ off) : regAt off size = .error .outsideBlock := if_pos h

/-- Why an access reaches no register (R81, R85; log 16). -/
theorem regAt_eq_error {off size : Nat} {f : Fault} (h : regAt off size = .error f) :
    (f = .outsideBlock ∧ 0x80 ≤ off) ∨ (f = .unadmittedAccess ∧ off < 0x80 ∧ (size ≠ 4 ∨ off % 4 ≠ 0)) := by
  by_cases hout : 0x80 ≤ off
  · rw [regAt_outside size hout] at h
    exact .inl ⟨(Except.error.inj h).symm, hout⟩
  have hlt : off < 0x80 := Nat.not_le.1 hout
  by_cases hform : size = 4 ∧ off % 4 = 0
  · obtain ⟨rfl, hmod⟩ := hform
    obtain ⟨r, hr⟩ := exists_regAt hlt hmod
    exact nomatch hr.symm.trans h
  have hbad : size ≠ 4 ∨ off % 4 ≠ 0 := not_and_or.1 hform
  rw [regAt_unadmitted hlt hbad] at h
  exact .inr ⟨(Except.error.inj h).symm, hlt, hbad⟩

theorem hostRead_answers (off size : Nat) (s : State) :
    (∃ t, hostRead off size s = .next t) ∨ ∃ f, regAt off size = .error f ∧ hostRead off size s = .fault f := by
  cases hreg : regAt off size with
  | error f => exact .inr ⟨f, rfl, hostRead_error hreg s⟩
  | ok r => exact .inl ⟨_, by rw [hostRead, hreg]⟩

theorem hostWrite_answers {s : State} (off size : Nat) (v : Word) (hf : s.fault = false) :
    (∃ t, hostWrite off size v s = .next t) ∨
      ∃ f, regAt off size = .error f ∧ hostWrite off size v s = .fault f := by
  cases hreg : regAt off size with
  | error f => exact .inr ⟨f, rfl, hostWrite_error hreg v s⟩
  | ok r =>
    refine .inl ?_
    rw [hostWrite, hreg]
    cases r with
    | cmd => exact issue_unfaulted v hf
    | _ => exact ⟨_, rfl⟩

/-- Event `e` is a host access of the register space, at offset `off` and of `size` bytes. -/
def registerAccess (off size : Nat) (e : Event) : Prop := e = .read off size ∨ ∃ v, e = .write off size v

/-- Every move has a next state, or stops after FAULT, or is an access that reaches no register. -/
theorem runEvent_answers (e : Event) (s : State) :
    (∃ t, runEvent e s = .next t) ∨
      (s.fault = true ∧ e ≠ .reset ∧ runEvent e s = .fault .busFault) ∨
      (∃ off size f, registerAccess off size e ∧ regAt off size = .error f ∧ runEvent e s = .fault f) := by
  by_cases hreset : e = .reset
  · subst hreset
    exact .inl ⟨_, rfl⟩
  cases hf : s.fault with
  | true => exact .inr (.inl ⟨rfl, hreset, runEvent_faulted hf hreset⟩)
  | false =>
    cases e with
    | read off size =>
      rw [runEvent_read hf]
      rcases hostRead_answers off size s with hnext | ⟨f, hreg, hfault⟩
      · exact .inl hnext
      · exact .inr (.inr ⟨off, size, f, .inl rfl, hreg, hfault⟩)
    | write off size v =>
      rw [runEvent_write hf]
      rcases hostWrite_answers off size v hf with hnext | ⟨f, hreg, hfault⟩
      · exact .inl hnext
      · exact .inr (.inr ⟨off, size, f, .inr ⟨v, rfl⟩, hreg, hfault⟩)
    | dma c v => exact .inl ⟨_, runEvent_dma hf c v⟩
    | irq => exact .inl ⟨_, runEvent_irq hf⟩
    | chunk => exact .inl ⟨_, runEvent_chunk hf⟩
    | memStore a v => exact .inl ⟨_, runEvent_memStore hf a v⟩
    | memLoad a => exact .inl ⟨_, runEvent_memLoad hf a⟩
    | reset => exact absurd rfl hreset

theorem takeEvent_fault (s : State) : (takeEvent s).2.fault = s.fault := by
  obtain ⟨agenda, draws, htake⟩ := takeEvent_spec s
  rw [htake]

/-- Settles O12: a step is the next move's, and a move stops as `runEvent_answers` says. -/
theorem stepStopsOnlyWhereTheSpecSaysSo : Obligations.StepStopsOnlyWhereTheSpecSaysSo := by
  intro s
  rw [step]
  rcases runEvent_answers (takeEvent s).1 (takeEvent s).2 with
    ⟨t, e⟩ | ⟨hf, hreset, e⟩ | ⟨off, size, f, haccess, hreg, e⟩ <;> rw [e]
  · exact ⟨nofun, nofun⟩
  · refine ⟨nofun, fun g hg => .inl ⟨(Host.Outcome.fault.inj hg).symm, ?_, hreset⟩⟩
    rw [← takeEvent_fault, hf]
  · refine ⟨nofun, fun g hg => .inr ⟨off, size, haccess, ?_⟩⟩
    rw [← Host.Outcome.fault.inj hg]
    exact regAt_eq_error hreg

end Sys2Proof.Machine
end

section
/-!
PROOFS. Reset and hazards (70_reset_and_hazards.md): the state a reset gives, and the output range of a READ that a
reset abandons, before and after the host stores a byte there.
-/

namespace Sys2Proof.Machine

/-! ## The reset step (R306, R340) -/

/-- Reset is the one move that FAULT does not stop (R306). -/
theorem step_reset {s : State} {rest : List Event} (ha : s.agenda = .reset :: rest) :
    step s = .next (resetBlock { s with agenda := rest }) :=
  step_of_agenda ha

/-- Settles O40: the step is `resetBlock`, which the statement writes out field by field. -/
theorem resetRestoresTheBlock : Obligations.ResetRestoresTheBlock := fun _ _ ha => step_reset ha

/-! ## Bytes that are any value to the host, and bytes stored again (R95, R340; log 10) -/

/-- A reset moves the range of the READ it abandons to the kept ranges, so no byte gains or loses a known value. -/
theorem anyValueRanges_resetBlock (s : State) : anyValueRanges (resetBlock s) = anyValueRanges s := rfl

theorem step_memStore {s : State} {a : Addr} {v : Byte} {rest : List Event} (hf : s.fault = false)
    (ha : s.agenda = .memStore a v :: rest) : step s = .next (hostStore a v { s with agenda := rest }) :=
  (step_of_agenda ha).trans (runEvent_memStore (s := { s with agenda := rest }) hf a v)

theorem hostLoad_mem (a : Addr) (s : State) : (hostLoad a s).mem = s.mem := by
  rcases hostLoad_cases a s with ⟨-, e⟩ | ⟨-, e⟩ <;> rw [e]

theorem hostLoad_hostData_of_open {a : Addr} {s : State} (h : isOpen (anyValueRanges s) a.toNat = true) :
    (hostLoad a s).hostData = 0#24 ++ Config.outputByte s.draws := by
  rw [hostLoad, if_pos h]

theorem hostLoad_hostData_of_settled {a : Addr} {s : State} (h : isOpen (anyValueRanges s) a.toNat = false) :
    (hostLoad a s).hostData = 0#24 ++ hostByte s a := by
  rw [hostLoad, if_neg (Bool.eq_false_iff.1 h)]

/-- With no READ in progress, a byte the host stores is settled. -/
theorem isOpen_hostStore_self {s : State} (hidle : s.rd.busy = false) (a : Addr) (v : Byte) :
    isOpen (anyValueRanges (hostStore a v s)) a.toNat = false := by
  have hranges : anyValueRanges (hostStore a v s) = settle a.toNat (a.toNat + 1) s.openRanges :=
    if_neg (Bool.eq_false_iff.1 hidle)
  rw [hranges, Bool.eq_false_iff]
  exact fun hopen => ((isOpen_settle_iff _ _ _ _).1 hopen).2 ⟨Nat.le_refl _, Nat.lt_succ_self _⟩

theorem hostByte_hostStore_self (s : State) (a : Addr) (v : Byte) : hostByte (hostStore a v s) a = v :=
  hostByte_of_read (Memory.read_write_self _ _ _)

/-- With no READ in progress, the host loads the byte it last stored. -/
theorem hostLoad_hostStore_self {s : State} (hidle : s.rd.busy = false) (a : Addr) (v : Byte) :
    (hostLoad a (hostStore a v s)).hostData = 0#24 ++ v := by
  rw [hostLoad_hostData_of_settled (isOpen_hostStore_self hidle a v), hostByte_hostStore_self]

/-! ## A READ abandoned by a reset (R208, R340) -/

/-- Settles O60: the reset keeps the READ's range open, so a load there draws a free value; a store settles its byte. -/
theorem abandonedReadIsAnyValueUntilWritten : Obligations.AbandonedReadIsAnyValueUntilWritten := by
  intro s a v rest hbusy hlo hhi
  refine ⟨fun hload => ?load, fun hstore => ?store⟩
  case load =>
    have hopen : isOpen (anyValueRanges (resetBlock { s with agenda := rest })) a.toNat = true := by
      rw [anyValueRanges_resetBlock]
      exact (isOpen_anyValueRanges _ _).2 (.inl ⟨hbusy, hlo, hhi⟩)
    exact ⟨_, hostLoad a (resetBlock { s with agenda := rest }), step_reset hload, rfl, rfl, step_memLoad rfl rfl,
      hostLoad_mem _ _, hostLoad_hostData_of_open hopen⟩
  case store =>
    exact ⟨_, _, hostLoad a (hostStore a v (resetBlock { s with agenda := rest })), step_reset hstore,
      step_memStore rfl rfl, step_memLoad rfl rfl, hostLoad_hostStore_self rfl a v⟩

end Sys2Proof.Machine
end
